-- ==== Sys2Proof/Word.lean ====
section
/-! DEFINITION. The plain types every other file speaks of: bit vectors of any length (00_scope.md R8, R9), the
76-bit words of the two ports (30_encoding.md R60, R68), and what a layer-F function answers when it answers no
vector (40_bitvector_utilities.md R80). -/

namespace Sys2Proof

/-- R9: a bit vector is an ordered, finite sequence of bits; the element at 0-based position `p` is `v[p]`, the first
element is `v[0]`. A bit is exactly 0 or 1 (R8), here `false` or `true`. -/
abbrev Bits := List Bool

/-- R60: a command word CW. -/
abbrev CommandWord := BitVec 76

/-- R68: a response word RW. -/
abbrev ResponseWord := BitVec 76

/-- What a layer-F function answers outside its contract. -/
inductive LayerFError where
  /-- R80: `Err(LengthError)`, the one error value of layer F (60_exceptions.md R199). -/
  | lengthError
  /-- The refusal of a call outside a function's domain: `toBinary(value, width)` with `value >= 2^width` (R84), a
  permutation table with an entry below 1 (R101), an S-box that does not exist (R43), where the call passes the
  function's own length test, which comes first (log 14). It is no value of the function: the spec asks a model to
  refuse such a call. DESIGN CHOICE of the form, log 7; safe. -/
  | outsideDomain
  deriving DecidableEq, Repr

end Sys2Proof
end

