-- ==== Sys2Proof/Syntax.lean ====
section
/-! DEFINITION. The instructions: one constructor per row of spec/opcode_table.json (30_encoding.md R62), the five
reserved opcodes among them (R67). -/

namespace Sys2Proof

/-- R62: a command. Every command word has a `len` and a `data` field (R60), so every constructor carries both, the
ignored ones too (R65, R66): no bit of a word is lost, and it is the meaning that ignores them. -/
inductive Instr where
  /-- R170, op 0x0, format N. -/
  | nop (len : BitVec 8) (data : BitVec 64)
  /-- R154, op 0x1, format V, 48. -/
  | ldkey (len : BitVec 8) (data : BitVec 64)
  /-- R155, op 0x2, format V, 64. -/
  | ldblk (len : BitVec 8) (data : BitVec 64)
  /-- R156, op 0x3, format N. -/
  | enc (len : BitVec 8) (data : BitVec 64)
  /-- R157, op 0x4, format N. -/
  | rdout (len : BitVec 8) (data : BitVec 64)
  /-- R107, op 0x5, format V, 32. -/
  | exp (len : BitVec 8) (data : BitVec 64)
  /-- R85, op 0x6, format V, 48. -/
  | mix (len : BitVec 8) (data : BitVec 64)
  /-- R129, op 0x7, format V, 48. -/
  | sub (len : BitVec 8) (data : BitVec 64)
  /-- R108, op 0x8, format V, 32. -/
  | prm (len : BitVec 8) (data : BitVec 64)
  /-- R143, op 0x9, format V, 32. -/
  | rf (len : BitVec 8) (data : BitVec 64)
  /-- R171, op 0xA, format N. -/
  | rdst (len : BitVec 8) (data : BitVec 64)
  /-- R67, op 0xB, reserved. -/
  | reservedB (len : BitVec 8) (data : BitVec 64)
  /-- R67, op 0xC, reserved. -/
  | reservedC (len : BitVec 8) (data : BitVec 64)
  /-- R67, op 0xD, reserved. -/
  | reservedD (len : BitVec 8) (data : BitVec 64)
  /-- R67, op 0xE, reserved. -/
  | reservedE (len : BitVec 8) (data : BitVec 64)
  /-- R67, op 0xF, reserved. -/
  | reservedF (len : BitVec 8) (data : BitVec 64)
  deriving DecidableEq, Repr

end Sys2Proof
end

