-- ==== Sys2Proof/Decode.lean ====
section
/-! DEFINITION. The decoder, total over the 2^76 command words (30_encoding.md R60, R61, R62, R69), and after it the
encoder. A number that is no 76-bit word is rejected by name. -/

namespace Sys2Proof

/-- R60: `CW[75:72]`. -/
def wordOp (w : CommandWord) : BitVec 4 := w.extractLsb' 72 4

/-- R60: `CW[71:64]`. -/
def wordLen (w : CommandWord) : BitVec 8 := w.extractLsb' 64 8

/-- R60: `CW[63:0]`. -/
def wordData (w : CommandWord) : BitVec 64 := w.extractLsb' 0 64

/-- R62: the opcode map; `op` alone selects the command. The last arm is `op = 0xF`, the only 4-bit number left. -/
def decode (w : CommandWord) : Instr :=
  match (wordOp w).toNat with
  | 0x0 => .nop (wordLen w) (wordData w)
  | 0x1 => .ldkey (wordLen w) (wordData w)
  | 0x2 => .ldblk (wordLen w) (wordData w)
  | 0x3 => .enc (wordLen w) (wordData w)
  | 0x4 => .rdout (wordLen w) (wordData w)
  | 0x5 => .exp (wordLen w) (wordData w)
  | 0x6 => .mix (wordLen w) (wordData w)
  | 0x7 => .sub (wordLen w) (wordData w)
  | 0x8 => .prm (wordLen w) (wordData w)
  | 0x9 => .rf (wordLen w) (wordData w)
  | 0xA => .rdst (wordLen w) (wordData w)
  | 0xB => .reservedB (wordLen w) (wordData w)
  | 0xC => .reservedC (wordLen w) (wordData w)
  | 0xD => .reservedD (wordLen w) (wordData w)
  | 0xE => .reservedE (wordLen w) (wordData w)
  | _ => .reservedF (wordLen w) (wordData w)

/-- Why a number is no instruction. -/
inductive DecodeError where
  /-- The number needs more than 76 bits; every command is exactly 76 (R60, R69). Safe: no such transfer exists. -/
  | notACommandWord
  deriving DecidableEq, Repr

/-- A number read as a command word: CW's bit 0 is the number's least significant bit. Log 12. -/
def commandWord (x : Nat) : Except DecodeError CommandWord :=
  if x < 2 ^ 76 then .ok (BitVec.ofNat 76 x) else .error .notACommandWord

/-- The decoder on any number. -/
def decodeNumber (x : Nat) : Except DecodeError Instr :=
  match commandWord x with
  | .ok w => .ok (decode w)
  | .error e => .error e

/-- The instruction whose bits are `w`, the lowest `nbits` of them, as spec/opcode_table.json numbers them. Log 12. -/
def decodeTableWord (nbits w : Nat) : Option Instr :=
  match decodeNumber (w % 2 ^ nbits) with
  | .ok i => some i
  | .error _ => none

/-- R62: the opcode of a command. -/
def Instr.op : Instr → BitVec 4
  | .nop _ _ => 0x0#4
  | .ldkey _ _ => 0x1#4
  | .ldblk _ _ => 0x2#4
  | .enc _ _ => 0x3#4
  | .rdout _ _ => 0x4#4
  | .exp _ _ => 0x5#4
  | .mix _ _ => 0x6#4
  | .sub _ _ => 0x7#4
  | .prm _ _ => 0x8#4
  | .rf _ _ => 0x9#4
  | .rdst _ _ => 0xA#4
  | .reservedB _ _ => 0xB#4
  | .reservedC _ _ => 0xC#4
  | .reservedD _ _ => 0xD#4
  | .reservedE _ _ => 0xE#4
  | .reservedF _ _ => 0xF#4

/-- R60: the `len` field a command carries. -/
def Instr.len : Instr → BitVec 8
  | .nop l _ | .ldkey l _ | .ldblk l _ | .enc l _ | .rdout l _ | .exp l _ | .mix l _ | .sub l _
  | .prm l _ | .rf l _ | .rdst l _ | .reservedB l _ | .reservedC l _ | .reservedD l _ | .reservedE l _
  | .reservedF l _ => l

/-- R60: the `data` field a command carries. -/
def Instr.data : Instr → BitVec 64
  | .nop _ d | .ldkey _ d | .ldblk _ d | .enc _ d | .rdout _ d | .exp _ d | .mix _ d | .sub _ d
  | .prm _ d | .rf _ d | .rdst _ d | .reservedB _ d | .reservedC _ d | .reservedD _ d | .reservedE _ d
  | .reservedF _ d => d

/-- R60: the command word, `op` on top, then `len`, then `data`. -/
def makeWord (op : BitVec 4) (len : BitVec 8) (data : BitVec 64) : CommandWord := op ++ len ++ data

/-- The encoder. -/
def encode (i : Instr) : CommandWord := makeWord i.op i.len i.data

end Sys2Proof
end

