-- ==== Sys2Proof/Machine/Bits.lean ====
section
/-! DEFINITION. Bit vectors, numbers and buses: the notation of 00_scope.md section 5, and the byte order a host
should use (20_memory.md R46). -/

namespace Sys2Proof

/-- R10: the number a vector spells, first element most significant. -/
def LayerF.val : Bits → Nat
  | [] => 0
  | b :: v => b.toNat * 2 ^ v.length + LayerF.val v

/-- R11: the vector of length `n` that spells `x`, for `x < 2^n`; the element at position `p` is binary digit `n-1-p`.
For a larger `x` it is not defined by the spec; the callers never ask (log 13). -/
def LayerF.vec (n x : Nat) : Bits := (List.range n).map fun p => x.testBit (n - 1 - p)

/-- R12: the slice `v@[p..q]`, for positions that exist and `p <= q`. Otherwise it leaves out positions that do not
exist, and with `q < p` it has the one element at `p` (log 13). -/
def LayerF.slice (v : Bits) (p q : Nat) : Bits := (v.drop p).take (q - p + 1)

/-- R13: a vector of length at most 64 on the data bus, right-justified. A longer vector does not travel (log 13). -/
def LayerF.carry (v : Bits) : BitVec 64 := BitVec.ofNat 64 (LayerF.val v)

/-- R13: `take_n(data) = vec_n(data[n-1:0])`, for `n <= 64`. For a larger `n` R13 gives nothing; there the model puts
zeros above `data[63]`. DESIGN CHOICE, log 13; safe, since the commands ask for 32, 48 and 64 only. -/
def LayerF.take (n : Nat) (data : BitVec 64) : Bits := LayerF.vec n (data.extractLsb' 0 n).toNat

/-- A register's content as the bit vector it holds (R20 to R22): the first element is the most significant bit. -/
def LayerF.ofReg {w : Nat} (x : BitVec w) : Bits := LayerF.vec w x.toNat

/-- A bit vector of length `w` as the content of a `w`-bit register. The callers give no other length (log 13). -/
def LayerF.toReg (w : Nat) (v : Bits) : BitVec w := BitVec.ofNat w (LayerF.val v)

/-- R46, advice to the host: bytes as a vector, byte 0 first, position 0 in the most significant bit of byte 0. -/
def LayerF.ofBytes (bytes : List (BitVec 8)) : Bits := bytes.flatMap fun b => LayerF.ofReg b

end Sys2Proof
end

