-- ==== Sys2Proof/Config.lean ====
section
/-! DEFINITION. What is fixed for one FN-RFD: its identity (00_scope.md R2), the form of its three constant tables
(R7, 10_state.md R32), and the unspecified register contents after a reset (R31). The tables' default values stand in
Machine/Tables.lean. -/

namespace Sys2Proof

/-- R7: the three tables as one configuration record. An entry of `eTable` or `pTable` is the 1-based source index
itself (20_memory.md R41, R42); `sBox` is indexed `[g][row][col]`, all 0-based (R43, 42_substitution.md R121). -/
structure Config.Tables where
  eTable : List Nat
  pTable : List Nat
  sBox   : List (List (List Nat))
  deriving DecidableEq, Repr

/-- R2: the identity a model of this hardware records. -/
structure Config.Identity where
  name       : String
  origin     : String
  family     : String
  commandSet : String
  deriving DecidableEq, Repr

/-- R2. -/
def Config.identity : Config.Identity where
  name       := "FN-RFD"
  origin     := "GitHub repository pab6750/FeistelNetwork as described by FN"
  family     := "one DES-style Feistel round"
  commandSet := "FN-RFD command set 1"

/-- R31: the content KEY has after the `n`-th reset (counted from 0) is unspecified. A constant with no body: nothing
can be proved of its values. DESIGN CHOICE, log 3; unsafe only in that one reset names one value. -/
opaque Config.resetKey : Nat → BitVec 48

/-- R31: the unspecified content of BLOCK after the `n`-th reset. DESIGN CHOICE, log 3. -/
opaque Config.resetBlock : Nat → BitVec 64

/-- R31: the unspecified content of OUT after the `n`-th reset. DESIGN CHOICE, log 3. -/
opaque Config.resetOut : Nat → BitVec 64

end Sys2Proof
end

