-- ==== Sys2Proof/Machine/State.lean ====
section
/-! DEFINITION. The machine's state (10_state.md), the host's moves and the response (30_encoding.md R72), the cause
codes (60_exceptions.md R180), the state right after reset (R31), and why a step can stop. -/

namespace Sys2Proof.Machine

/-- R180: the causes; the codes are `Cause.code`. Code 7 has no constructor: it is never generated. -/
inductive Cause where
  | none
  | illegalOp
  | lenXor
  | lenBlock
  | lenHalf
  | lenStage
  | notLoaded
  deriving DecidableEq, Repr

/-- R68: the fields of a response, before they are laid out as a word. -/
structure Response where
  err   : Bool
  cause : Cause
  len   : BitVec 8
  data  : BitVec 64
  deriving DecidableEq, Repr

/-- R221: what the host can do to the block. -/
inductive HostEvent where
  /-- `cmd_valid` with the word on `cmd`: one assertion is one command (R72). -/
  | command (w : CommandWord)
  /-- `rst`, a step of its own between commands (R210). -/
  | reset
  deriving DecidableEq, Repr

/-- The state. There is no program counter (R24), no memory (20_memory.md R40) and no other register (R29, R30). -/
structure State where
  /-- R20. -/
  key : BitVec 48
  /-- R21. -/
  block : BitVec 64
  /-- R22. -/
  out : BitVec 64
  /-- R25; its fields are read and written through Machine/Flags.lean. -/
  status : BitVec 8
  /-- The ports `rst`, `cmd`, `cmd_valid` (R72): the moves the host has chosen and not yet made, the next one first.
  DESIGN CHOICE of the form, log 1; safe. -/
  host : List HostEvent
  /-- The ports `rsp`, `rsp_valid` (R72): the responses given so far, oldest first (R19). DESIGN CHOICE of the form,
  log 2; safe. -/
  responses : List ResponseWord
  /-- The model's own: how many resets there have been, the argument of the unspecified contents. DESIGN CHOICE,
  log 4; safe. -/
  resets : Nat
  deriving DecidableEq, Repr

/-- Why a command can stop the model. -/
inductive Fault where
  /-- Raised by the commands that call layer F (MIX, EXP, PRM, SUB, RF, ENC) where the call answers no vector. R80 says
  that no command evaluates a layer-F function outside its contract, so no state reaches it. A command's own fault
  (R188) is not this: it is a next state. Safe. Log 7. -/
  | layerFEscaped (e : LayerFError)
  deriving DecidableEq, Repr

/-- Why the model can decline a command. -/
inductive Refusal where
  /-- Raised by an arm of `exec` whose instruction has no meaning yet; no arm is left that does. Safe. -/
  | notModelled (mnemonic : String)
  deriving DecidableEq, Repr

/-- R31: the machine right after reset. STATUS is 0; KEY, BLOCK and OUT are unspecified (DESIGN CHOICE, log 3); nothing
is presented and nothing has been answered (logs 1, 2); one reset has taken place (log 4). -/
def State.reset : State where
  key       := Config.resetKey 0
  block     := Config.resetBlock 0
  out       := Config.resetOut 0
  status    := 0#8
  host      := []
  responses := []
  resets    := 1

end Sys2Proof.Machine
end

