-- ==== Sys2Proof/Machine/Flags.lean ====
section
/-! DEFINITION. STATUS and its fields (10_state.md R25 to R28), the cause codes (60_exceptions.md R180). -/

namespace Sys2Proof.Machine

/-- R180: the 3-bit code of a cause. -/
def Cause.code : Cause → BitVec 3
  | .none => 0#3
  | .illegalOp => 1#3
  | .lenXor => 2#3
  | .lenBlock => 3#3
  | .lenHalf => 4#3
  | .lenStage => 5#3
  | .notLoaded => 6#3

/-- R25: bit 0, KV. -/
def statusKV (st : BitVec 8) : Bool := st.getLsbD 0

/-- R25: bit 1, BV. -/
def statusBV (st : BitVec 8) : Bool := st.getLsbD 1

/-- R25: bit 2, OV. -/
def statusOV (st : BitVec 8) : Bool := st.getLsbD 2

/-- R25: bit 3, ERR. -/
def statusERR (st : BitVec 8) : Bool := st.getLsbD 3

/-- R25: bits 6:4, CAUSE. -/
def statusCAUSE (st : BitVec 8) : BitVec 3 := st.extractLsb' 4 3

/-- R25: bit 7, reserved. -/
def statusBit7 (st : BitVec 8) : Bool := st.getLsbD 7

/-- R25: `STATUS.KV <- 1`, every other bit as it was. -/
def setKV (st : BitVec 8) : BitVec 8 := st ||| 0x01#8

/-- R25: `STATUS.BV <- 1`. -/
def setBV (st : BitVec 8) : BitVec 8 := st ||| 0x02#8

/-- R25: `STATUS.OV <- 1`. -/
def setOV (st : BitVec 8) : BitVec 8 := st ||| 0x04#8

/-- R188 (b): `STATUS.ERR <- 1` and `STATUS.CAUSE <- c`; KV, BV, OV and bit 7 as they were. -/
def recordFault (c : Cause) (st : BitVec 8) : BitVec 8 :=
  (st &&& 0x87#8) ||| 0x08#8 ||| (c.code.setWidth 8 <<< 4)

end Sys2Proof.Machine
end

