-- ==== Sys2Proof/Machine/Ops.lean ====
section
/-! DEFINITION. The operations over the state that the commands share: the response (30_encoding.md R68), TAKING A
FAULT (60_exceptions.md R188), the whole-register writes (20_memory.md R48), and the reset (70_reset_and_hazards.md
R210). There is no return from a fault (R190). -/

namespace Sys2Proof.Machine

/-- R68: the response word, `err`, `cause`, `len`, `data` from the top. -/
def Response.word (r : Response) : ResponseWord := BitVec.ofBool r.err ++ r.cause.code ++ r.len ++ r.data

/-- R68: `RW[75]`. -/
def rspErr (w : ResponseWord) : Bool := w.getLsbD 75

/-- R68: `RW[74:72]`. -/
def rspCause (w : ResponseWord) : BitVec 3 := w.extractLsb' 72 3

/-- R68: `RW[71:64]`. -/
def rspLen (w : ResponseWord) : BitVec 8 := w.extractLsb' 64 8

/-- R68: `RW[63:0]`. -/
def rspData (w : ResponseWord) : BitVec 64 := w.extractLsb' 0 64

/-- R15, R68: the response of a success whose result is the vector `v` of length `n`; the callers give no other `v`, and
no `n` above 64 (log 13). -/
def successWord (n : Nat) (v : Bits) : ResponseWord :=
  Response.word { err := false, cause := .none, len := BitVec.ofNat 8 n, data := LayerF.carry v }

/-- R15, R68, R188 (c): the response of a fault: no length and no data. -/
def faultWord (c : Cause) : ResponseWord :=
  Response.word { err := true, cause := c, len := 0#8, data := 0#64 }

/-- STATUS.KV. -/
def State.kv (s : State) : Bool := statusKV s.status

/-- STATUS.BV. -/
def State.bv (s : State) : Bool := statusBV s.status

/-- STATUS.OV. -/
def State.ov (s : State) : Bool := statusOV s.status

/-- STATUS.ERR. -/
def State.err (s : State) : Bool := statusERR s.status

/-- STATUS.CAUSE. -/
def State.cause (s : State) : BitVec 3 := statusCAUSE s.status

/-- One transfer on the response port (R72). -/
def State.answer (w : ResponseWord) (s : State) : State := { s with responses := s.responses ++ [w] }

/-- R15: `respond(n, v)`. -/
def State.respond (n : Nat) (v : Bits) (s : State) : State := s.answer (successWord n v)

/-- R15: `respond(0)`. -/
def State.respondNone (s : State) : State := s.respond 0 []

/-- R188: FAULT ENTRY with cause `c`: no register write of the command, ERR and CAUSE recorded, the response without
data, and nothing else; the block is ready for the next command. -/
def State.raiseFault (c : Cause) (s : State) : State :=
  ({ s with status := recordFault c s.status }).answer (faultWord c)

/-- R154: `KEY <- k`, `STATUS.KV <- 1`. -/
def State.loadKey (k : BitVec 48) (s : State) : State := { s with key := k, status := setKV s.status }

/-- R155: `BLOCK <- b`, `STATUS.BV <- 1`. -/
def State.loadBlock (b : BitVec 64) (s : State) : State := { s with block := b, status := setBV s.status }

/-- R156: `OUT <- y`, `STATUS.OV <- 1`. -/
def State.writeOut (y : BitVec 64) (s : State) : State := { s with out := y, status := setOV s.status }

/-- R210, R31: the reset event: STATUS to 0, KEY, BLOCK and OUT unspecified, no response. The contents are the opaque
constants of Config applied to the number of resets before this one (logs 3, 4). -/
def State.hostReset (s : State) : State :=
  { s with
    key    := Config.resetKey s.resets
    block  := Config.resetBlock s.resets
    out    := Config.resetOut s.resets
    status := 0#8
    resets := s.resets + 1 }

/-- R15, R61 step 3: `require` that the registers read are loaded, else NOT_LOADED (R186). -/
def requireLoaded (loaded : Bool) (s : State) (k : Host.Outcome State Fault Refusal) :
    Host.Outcome State Fault Refusal :=
  if loaded then k else .next (s.raiseFault .notLoaded)

/-- R16: a command goes on with the vector a layer-F function answers. The error arm is never taken (R80, log 7). -/
def withResult (r : Except LayerFError Bits) (k : Bits → State) : Host.Outcome State Fault Refusal :=
  match r with
  | .ok v => .next (k v)
  | .error e => .fault (.layerFEscaped e)

end Sys2Proof.Machine
end

