-- ==== Sys2Proof/Machine/Operands.lean ====
section
/-! DEFINITION. The one operand form there is, format V (30_encoding.md R63, R64, R65). Format N has no operand
(R66). -/

namespace Sys2Proof.Machine

/-- R64, R65, R61 step 2: a command whose operand must have length `n` compares `len` with `n` first; where they
differ it faults with its length cause and `data` is not used; else it goes on with `take_n(data)`. -/
def withOperand (n : Nat) (c : Cause) (len : BitVec 8) (data : BitVec 64) (s : State)
    (k : Bits → Host.Outcome State Fault Refusal) : Host.Outcome State Fault Refusal :=
  if len.toNat = n then k (LayerF.take n data) else .next (s.raiseFault c)

end Sys2Proof.Machine
end

