-- ==== Sys2Proof/WellFormed.lean ====
section
/-! DEFINITION. Which terms stand for something of the hardware. A configuration of tables is checked here
(41_permutation.md R101, 42_substitution.md R120, R122): one that breaks its shape is refused, being no FN-RFD (U6).
An `Instr` needs no check to be a command word, since its fields have the widths of the word's fields and the decoder
answers for every word (30_encoding.md R61); `Instr.canonical` is the narrower check that the bits a command ignores
are zero, as an assembler emits them (R66). -/

namespace Sys2Proof

/-- R101: the expansion table has exactly 48 entries. -/
def Config.Tables.eShape (T : Config.Tables) : Bool := T.eTable.length == 48

/-- R101: each entry of the expansion table is in 1..32. -/
def Config.Tables.eRange (T : Config.Tables) : Bool := T.eTable.all fun i => decide (1 ≤ i ∧ i ≤ 32)

/-- R101: the final permutation table has exactly 32 entries. -/
def Config.Tables.pShape (T : Config.Tables) : Bool := T.pTable.length == 32

/-- R101: each entry of the final permutation table is in 1..32. -/
def Config.Tables.pRange (T : Config.Tables) : Bool := T.pTable.all fun i => decide (1 ≤ i ∧ i ≤ 32)

/-- R101: every value of 1..32 occurs exactly once in the final permutation table. -/
def Config.Tables.pBijective (T : Config.Tables) : Bool :=
  (List.range 32).all fun j => T.pTable.count (j + 1) == 1

/-- R120: eight tables, each of 4 rows by 16 columns. -/
def Config.Tables.sShape (T : Config.Tables) : Bool :=
  T.sBox.length == 8 && T.sBox.all fun box => box.length == 4 && box.all fun row => row.length == 16

/-- R120: each S-box entry is in 0..15. -/
def Config.Tables.sRange (T : Config.Tables) : Bool :=
  T.sBox.all fun box => box.all fun row => row.all fun e => decide (e ≤ 15)

/-- R122: the one literal FN gives, `SBox[0][0][0] = 14`. -/
def Config.Tables.sFirst (T : Config.Tables) : Bool :=
  (T.sBox[0]?.bind fun box => box[0]?.bind fun row => row[0]?) == some 14

/-- R7, R101, R120, R122: the tables are those of an FN-RFD. -/
def Config.Tables.wf (T : Config.Tables) : Bool :=
  T.eShape && T.eRange && T.pShape && T.pRange && T.pBijective && T.sShape && T.sRange && T.sFirst

/-- A configuration of FN-RFD: tables with the proof of their constraints, so that a malformed one cannot be given
(U6 'refuse'). -/
abbrev Config.TableConfig := { T : Config.Tables // T.wf = true }

/-- R66: the bits of `data` at and above `n` are zero. -/
def dataBelow (n : Nat) (data : BitVec 64) : Bool := decide (data.toNat < 2 ^ n)

/-- R66, R70: every bit the command ignores is zero: `len` and `data` of format N, `data[63:n]` of format V. A reserved
opcode ignores nothing it could be said to carry, and has no other spelling than `.word` (R70). -/
def Instr.canonical : Instr → Bool
  | .nop len data => len == 0 && data == 0
  | .ldkey _ data => dataBelow 48 data
  | .ldblk _ _ => true
  | .enc len data => len == 0 && data == 0
  | .rdout len data => len == 0 && data == 0
  | .exp _ data => dataBelow 32 data
  | .mix _ data => dataBelow 48 data
  | .sub _ data => dataBelow 48 data
  | .prm _ data => dataBelow 32 data
  | .rf _ data => dataBelow 32 data
  | .rdst len data => len == 0 && data == 0
  | .reservedB _ _ => true
  | .reservedC _ _ => true
  | .reservedD _ _ => true
  | .reservedE _ _ => true
  | .reservedF _ _ => true

end Sys2Proof
end

