-- ==== Sys2Proof/Machine/Tables.lean ====
section
/-! DEFINITION. The constant tables: their default values (41_permutation.md R104, R106, 42_substitution.md R123,
general knowledge of the DES tables, log 6), the configuration of the machine, and the reads of the three table ROMs
(20_memory.md R41 to R44). -/

namespace Sys2Proof

/-- R104: the default expansion table. UNVERIFIED against the repository, log 6. -/
def Config.eTableDefault : List Nat :=
  [32, 1, 2, 3, 4, 5] ++
  [4, 5, 6, 7, 8, 9] ++
  [8, 9, 10, 11, 12, 13] ++
  [12, 13, 14, 15, 16, 17] ++
  [16, 17, 18, 19, 20, 21] ++
  [20, 21, 22, 23, 24, 25] ++
  [24, 25, 26, 27, 28, 29] ++
  [28, 29, 30, 31, 32, 1]

/-- R106: the default final permutation table. UNVERIFIED against the repository, log 6. -/
def Config.pTableDefault : List Nat :=
  [16, 7, 20, 21] ++
  [29, 12, 28, 17] ++
  [1, 15, 23, 26] ++
  [5, 18, 31, 10] ++
  [2, 8, 24, 14] ++
  [32, 27, 3, 9] ++
  [19, 13, 30, 6] ++
  [22, 11, 4, 25]

/-- R123: `SBox[0]`. -/
def Config.sBox0 : List (List Nat) :=
  [[14, 4, 13, 1, 2, 15, 11, 8, 3, 10, 6, 12, 5, 9, 0, 7],
   [0, 15, 7, 4, 14, 2, 13, 1, 10, 6, 12, 11, 9, 5, 3, 8],
   [4, 1, 14, 8, 13, 6, 2, 11, 15, 12, 9, 7, 3, 10, 5, 0],
   [15, 12, 8, 2, 4, 9, 1, 7, 5, 11, 3, 14, 10, 0, 6, 13]]

/-- R123: `SBox[1]`. -/
def Config.sBox1 : List (List Nat) :=
  [[15, 1, 8, 14, 6, 11, 3, 4, 9, 7, 2, 13, 12, 0, 5, 10],
   [3, 13, 4, 7, 15, 2, 8, 14, 12, 0, 1, 10, 6, 9, 11, 5],
   [0, 14, 7, 11, 10, 4, 13, 1, 5, 8, 12, 6, 9, 3, 2, 15],
   [13, 8, 10, 1, 3, 15, 4, 2, 11, 6, 7, 12, 0, 5, 14, 9]]

/-- R123: `SBox[2]`. -/
def Config.sBox2 : List (List Nat) :=
  [[10, 0, 9, 14, 6, 3, 15, 5, 1, 13, 12, 7, 11, 4, 2, 8],
   [13, 7, 0, 9, 3, 4, 6, 10, 2, 8, 5, 14, 12, 11, 15, 1],
   [13, 6, 4, 9, 8, 15, 3, 0, 11, 1, 2, 12, 5, 10, 14, 7],
   [1, 10, 13, 0, 6, 9, 8, 7, 4, 15, 14, 3, 11, 5, 2, 12]]

/-- R123: `SBox[3]`. -/
def Config.sBox3 : List (List Nat) :=
  [[7, 13, 14, 3, 0, 6, 9, 10, 1, 2, 8, 5, 11, 12, 4, 15],
   [13, 8, 11, 5, 6, 15, 0, 3, 4, 7, 2, 12, 1, 10, 14, 9],
   [10, 6, 9, 0, 12, 11, 7, 13, 15, 1, 3, 14, 5, 2, 8, 4],
   [3, 15, 0, 6, 10, 1, 13, 8, 9, 4, 5, 11, 12, 7, 2, 14]]

/-- R123: `SBox[4]`. -/
def Config.sBox4 : List (List Nat) :=
  [[2, 12, 4, 1, 7, 10, 11, 6, 8, 5, 3, 15, 13, 0, 14, 9],
   [14, 11, 2, 12, 4, 7, 13, 1, 5, 0, 15, 10, 3, 9, 8, 6],
   [4, 2, 1, 11, 10, 13, 7, 8, 15, 9, 12, 5, 6, 3, 0, 14],
   [11, 8, 12, 7, 1, 14, 2, 13, 6, 15, 0, 9, 10, 4, 5, 3]]

/-- R123: `SBox[5]`. -/
def Config.sBox5 : List (List Nat) :=
  [[12, 1, 10, 15, 9, 2, 6, 8, 0, 13, 3, 4, 14, 7, 5, 11],
   [10, 15, 4, 2, 7, 12, 9, 5, 6, 1, 13, 14, 0, 11, 3, 8],
   [9, 14, 15, 5, 2, 8, 12, 3, 7, 0, 4, 10, 1, 13, 11, 6],
   [4, 3, 2, 12, 9, 5, 15, 10, 11, 14, 1, 7, 6, 0, 8, 13]]

/-- R123: `SBox[6]`. -/
def Config.sBox6 : List (List Nat) :=
  [[4, 11, 2, 14, 15, 0, 8, 13, 3, 12, 9, 7, 5, 10, 6, 1],
   [13, 0, 11, 7, 4, 9, 1, 10, 14, 3, 5, 12, 2, 15, 8, 6],
   [1, 4, 11, 13, 12, 3, 7, 14, 10, 15, 6, 8, 0, 5, 9, 2],
   [6, 11, 13, 8, 1, 4, 10, 7, 9, 5, 0, 15, 14, 2, 3, 12]]

/-- R123: `SBox[7]`. -/
def Config.sBox7 : List (List Nat) :=
  [[13, 2, 8, 4, 6, 15, 11, 1, 10, 9, 3, 14, 5, 0, 12, 7],
   [1, 15, 13, 8, 10, 3, 7, 4, 12, 5, 6, 11, 0, 14, 9, 2],
   [7, 11, 4, 1, 9, 12, 14, 2, 0, 6, 10, 13, 15, 3, 5, 8],
   [2, 1, 14, 7, 4, 10, 8, 13, 15, 12, 9, 0, 3, 5, 6, 11]]

/-- R7, R104, R106, R123: the default tables. -/
def Config.defaultTables : Config.Tables where
  eTable := Config.eTableDefault
  pTable := Config.pTableDefault
  sBox   := [Config.sBox0, Config.sBox1, Config.sBox2, Config.sBox3,
             Config.sBox4, Config.sBox5, Config.sBox6, Config.sBox7]

/-- R101, R120, R122: the default tables satisfy the constraints. -/
theorem Config.defaultTables_wf : Config.defaultTables.wf = true := by decide +kernel

/-- The configuration the machine is built with (R7: a parameter, with the default). Log 6. -/
def Config.tables : Config.TableConfig := ⟨Config.defaultTables, Config.defaultTables_wf⟩

/-- R41: `RomE(i)`, for `1 <= i <= 48`; not defined elsewhere. -/
def LayerF.romE (T : Config.Tables) (i : Nat) : Option Nat :=
  if 1 ≤ i ∧ i ≤ 48 then T.eTable[i - 1]? else none

/-- R42: `RomP(i)`, for `1 <= i <= 32`; not defined elsewhere. -/
def LayerF.romP (T : Config.Tables) (i : Nat) : Option Nat :=
  if 1 ≤ i ∧ i ≤ 32 then T.pTable[i - 1]? else none

/-- R43: `RomS(g, row, col)`, all three 0-based; none where a coordinate does not exist. -/
def LayerF.romS (T : Config.Tables) (g row col : Nat) : Option Nat :=
  T.sBox[g]?.bind fun box => box[row]?.bind fun r => r[col]?

/-- R43: the flat S-ROM address of an entry, for `g` in 0..7, `row` in 0..3, `col` in 0..15. R43 gives no address for
other coordinates; there the model takes the number modulo 512, which names no entry of theirs. DESIGN CHOICE, log 13;
safe, since nothing asks for it. -/
def LayerF.sRomAddress (g row col : Nat) : BitVec 9 := BitVec.ofNat 9 (g * 64 + row * 16 + col)

/-- R43: the S-ROM read by its flat address: `g = addr[8:6]`, `row = addr[5:4]`, `col = addr[3:0]`. -/
def LayerF.romSFlat (T : Config.Tables) (addr : BitVec 9) : Option Nat :=
  LayerF.romS T (addr.extractLsb' 6 3).toNat (addr.extractLsb' 4 2).toNat (addr.extractLsb' 0 4).toNat

end Sys2Proof
end

