-- ==== Sys2Proof/Machine/Permutation.lean ====
section
/-! DEFINITION. The permutation engine, the expander and the output permutation (41_permutation.md): the functions
`permute`, `expand`, `finalPermute` and the commands EXP and PRM. -/

namespace Sys2Proof

/-- R9: `v<i>`, the element at 1-based position `i`, where there is one. -/
def LayerF.element (v : Bits) (i : Nat) : Option Bool :=
  match i with
  | 0 => none
  | p + 1 => v[p]?

/-- The elements of `v` that the entries name, in the table's order; none where an entry names none. -/
def LayerF.select (v : Bits) : List Nat → Option Bits
  | [] => some []
  | i :: table =>
    match LayerF.element v i, LayerF.select v table with
    | some b, some bs => some (b :: bs)
    | _, _ => none

/-- R100: the largest entry of a table. -/
def LayerF.maxEntry (table : List Nat) : Nat := table.foldr max 0

/-- R100: `out<i> = input<table[i]>`, the length tested first. A table with an entry below 1 is no permutation table
(R101, N9): on an input that passes the length test the call is refused (log 7), and on one that fails it the answer is
the length error (DESIGN CHOICE, log 14; safe, R101 specifies neither). -/
def LayerF.permute (input : Bits) (table : List Nat) : Except LayerFError Bits :=
  if input.length < LayerF.maxEntry table then .error .lengthError
  else
    match LayerF.select input table with
    | some out => .ok out
    | none => .error .outsideDomain

/-- R102, R103: the expander takes exactly 32 bits. -/
def LayerF.expand (T : Config.Tables) (r : Bits) : Except LayerFError Bits :=
  if r.length = 32 then LayerF.permute r T.eTable else .error .lengthError

/-- R105, R103: the output permutation takes exactly 32 bits. -/
def LayerF.finalPermute (T : Config.Tables) (s : Bits) : Except LayerFError Bits :=
  if s.length = 32 then LayerF.permute s T.pTable else .error .lengthError

namespace Machine

/-- R107. -/
def execExp (len : BitVec 8) (data : BitVec 64) (s : State) : Host.Outcome State Fault Refusal :=
  withOperand 32 .lenStage len data s fun r =>
    withResult (LayerF.expand Config.tables.val r) fun v => s.respond 48 v

/-- R108. -/
def execPrm (len : BitVec 8) (data : BitVec 64) (s : State) : Host.Outcome State Fault Refusal :=
  withOperand 32 .lenStage len data s fun r =>
    withResult (LayerF.finalPermute Config.tables.val r) fun v => s.respond 32 v

end Machine

end Sys2Proof
end

