-- ==== Sys2Proof/Machine/Utilities.lean ====
section
/-! DEFINITION. Bit-vector utilities and the subkey mixer (40_bitvector_utilities.md): the functions `xor`,
`toDecimal`, `toBinary` and the command MIX. -/

namespace Sys2Proof

/-- R81. -/
def LayerF.xor (a b : Bits) : Except LayerFError Bits :=
  if a.length = b.length then .ok (List.zipWith (fun x y => x ^^ y) a b) else .error .lengthError

/-- R83. -/
def LayerF.toDecimal (v : Bits) : Nat := LayerF.val v

/-- R84: a value that does not fit is outside the function's domain; the call is refused, never truncated. -/
def LayerF.toBinary (value width : Nat) : Except LayerFError Bits :=
  if value < 2 ^ width then .ok (LayerF.vec width value) else .error .outsideDomain

namespace Machine

/-- R85. -/
def execMix (len : BitVec 8) (data : BitVec 64) (s : State) : Host.Outcome State Fault Refusal :=
  withOperand 48 .lenXor len data s fun a =>
    requireLoaded s.kv s (withResult (LayerF.xor a (LayerF.ofReg s.key)) fun v => s.respond 48 v)

end Machine

end Sys2Proof
end

