-- ==== Sys2Proof/Machine/Substitution.lean ====
section
/-! DEFINITION. The substitution engine (42_substitution.md): the functions `sboxLookup`, `substitute` and the command
SUB. -/

namespace Sys2Proof

/-- R125: group `g` of a 48-bit vector, positions `6g .. 6g+5`. -/
def LayerF.group (m : Bits) (g : Nat) : Bits := LayerF.slice m (6 * g) (6 * g + 5)

/-- R126: the row of a 6-bit group, from its first and last bit in that order. -/
def LayerF.row (x : Bits) : Nat := LayerF.toDecimal (LayerF.slice x 0 0 ++ LayerF.slice x 5 5)

/-- R126: the column of a 6-bit group, from its four middle bits. -/
def LayerF.col (x : Bits) : Nat := LayerF.toDecimal (LayerF.slice x 1 4)

/-- R127: one lookup reads exactly one S-ROM entry. An S-box that does not exist is outside the domain (log 7); the
length is tested before that (log 14). -/
def LayerF.sboxLookup (T : Config.Tables) (g : Nat) (x : Bits) : Except LayerFError Bits :=
  if x.length = 6 then
    match LayerF.romS T g (LayerF.row x) (LayerF.col x) with
    | some entry => LayerF.toBinary entry 4
    | none => .error .outsideDomain
  else .error .lengthError

/-- R130: the lanes from number `g` on, one group each, their outputs in group order. -/
def LayerF.lanes (T : Config.Tables) (g : Nat) : List Bits → Except LayerFError Bits
  | [] => .ok []
  | x :: xs => do
    let y ← LayerF.sboxLookup T g x
    let ys ← LayerF.lanes T (g + 1) xs
    .ok (y ++ ys)

/-- R128. -/
def LayerF.substitute (T : Config.Tables) (m : Bits) : Except LayerFError Bits :=
  if m.length = 48 then LayerF.lanes T 0 ((List.range 8).map (LayerF.group m)) else .error .lengthError

namespace Machine

/-- R129. -/
def execSub (len : BitVec 8) (data : BitVec 64) (s : State) : Host.Outcome State Fault Refusal :=
  withOperand 48 .lenStage len data s fun m =>
    withResult (LayerF.substitute Config.tables.val m) fun v => s.respond 32 v

end Machine

end Sys2Proof
end

