-- ==== Sys2Proof/Machine/Round.lean ====
section
/-! DEFINITION. The round function (43_round_function.md) and the command RF. -/

namespace Sys2Proof

/-- R140: the four steps X, M, S, F; R142: the half block is checked before the subkey. -/
def LayerF.roundFunction (T : Config.Tables) (r k : Bits) : Except LayerFError Bits :=
  if r.length = 32 then
    if k.length = 48 then do
      let expanded ← LayerF.expand T r
      let mixed ← LayerF.xor expanded k
      let substituted ← LayerF.substitute T mixed
      LayerF.finalPermute T substituted
    else .error .lengthError
  else .error .lengthError

namespace Machine

/-- R143. -/
def execRf (len : BitVec 8) (data : BitVec 64) (s : State) : Host.Outcome State Fault Refusal :=
  withOperand 32 .lenHalf len data s fun r =>
    requireLoaded s.kv s
      (withResult (LayerF.roundFunction Config.tables.val r (LayerF.ofReg s.key)) fun v => s.respond 32 v)

end Machine

end Sys2Proof
end

