-- ==== Sys2Proof/Machine/Feistel.lean ====
section
/-! DEFINITION. The Feistel combiner and round driver (44_feistel_driver.md): the function `encryptOneRound` and the
commands LDKEY, LDBLK, ENC, RDOUT. -/

namespace Sys2Proof

/-- R150: the left and the right half of a 64-bit block. -/
def LayerF.split (b : Bits) : Except LayerFError (Bits × Bits) :=
  if b.length = 64 then .ok (LayerF.slice b 0 31, LayerF.slice b 32 63) else .error .lengthError

/-- R151: exactly one round; the block's length is checked first. -/
def LayerF.encryptOneRound (T : Config.Tables) (b k : Bits) : Except LayerFError Bits := do
  let halves ← LayerF.split b
  if k.length = 48 then
    let f ← LayerF.roundFunction T halves.2 k
    let newRight ← LayerF.xor f halves.1
    .ok (halves.2 ++ newRight)
  else .error .lengthError

/-- R153: the two halves of a 64-bit vector exchanged. -/
def LayerF.swap (y : Bits) : Bits := LayerF.slice y 32 63 ++ LayerF.slice y 0 31

namespace Machine

/-- R154. -/
def execLdkey (len : BitVec 8) (data : BitVec 64) (s : State) : Host.Outcome State Fault Refusal :=
  withOperand 48 .lenXor len data s fun k => .next (s.loadKey (LayerF.toReg 48 k)).respondNone

/-- R155. -/
def execLdblk (len : BitVec 8) (data : BitVec 64) (s : State) : Host.Outcome State Fault Refusal :=
  withOperand 64 .lenBlock len data s fun b => .next (s.loadBlock (LayerF.toReg 64 b)).respondNone

/-- R156. -/
def execEnc (_len : BitVec 8) (_data : BitVec 64) (s : State) : Host.Outcome State Fault Refusal :=
  requireLoaded (s.bv && s.kv) s
    (withResult (LayerF.encryptOneRound Config.tables.val (LayerF.ofReg s.block) (LayerF.ofReg s.key)) fun y =>
      (s.writeOut (LayerF.toReg 64 y)).respond 64 y)

/-- R157. -/
def execRdout (_len : BitVec 8) (_data : BitVec 64) (s : State) : Host.Outcome State Fault Refusal :=
  requireLoaded s.ov s (.next (s.respond 64 (LayerF.ofReg s.out)))

end Machine

end Sys2Proof
end

