-- ==== Sys2Proof/Machine/Reserved.lean ====
section
/-! DEFINITION. The reserved opcodes 0xB to 0xF (30_encoding.md R67): each takes the fault ILLEGAL_OP (60_exceptions.md
R181), whatever `len`, `data` and the state are. -/

namespace Sys2Proof.Machine

/-- R67, R181, op 0xB. -/
def execReservedB (_len : BitVec 8) (_data : BitVec 64) (s : State) : Host.Outcome State Fault Refusal :=
  .next (s.raiseFault .illegalOp)

/-- R67, R181, op 0xC. -/
def execReservedC (_len : BitVec 8) (_data : BitVec 64) (s : State) : Host.Outcome State Fault Refusal :=
  .next (s.raiseFault .illegalOp)

/-- R67, R181, op 0xD. -/
def execReservedD (_len : BitVec 8) (_data : BitVec 64) (s : State) : Host.Outcome State Fault Refusal :=
  .next (s.raiseFault .illegalOp)

/-- R67, R181, op 0xE. -/
def execReservedE (_len : BitVec 8) (_data : BitVec 64) (s : State) : Host.Outcome State Fault Refusal :=
  .next (s.raiseFault .illegalOp)

/-- R67, R181, op 0xF. -/
def execReservedF (_len : BitVec 8) (_data : BitVec 64) (s : State) : Host.Outcome State Fault Refusal :=
  .next (s.raiseFault .illegalOp)

end Sys2Proof.Machine
end

