-- ==== Sys2Proof/Machine/System.lean ====
section
/-! DEFINITION. The system commands NOP and RDST (45_system_commands.md). -/

namespace Sys2Proof.Machine

/-- R170. -/
def execNop (_len : BitVec 8) (_data : BitVec 64) (s : State) : Host.Outcome State Fault Refusal :=
  .next s.respondNone

/-- R171: the value answered is the STATUS left by the previous command. -/
def execRdst (_len : BitVec 8) (_data : BitVec 64) (s : State) : Host.Outcome State Fault Refusal :=
  .next (s.respond 8 (LayerF.ofReg s.status))

end Sys2Proof.Machine
end

