-- ==== Sys2Proof/Machine/Dispatch.lean ====
section
/-! DEFINITION. The dispatch: one arm per command of 30_encoding.md R62. -/

namespace Sys2Proof.Machine

def exec (i : Instr) (s : State) : Host.Outcome State Fault Refusal :=
  match i with
  | .nop len data => Sys2Proof.Machine.execNop len data s
  | .ldkey len data => Sys2Proof.Machine.execLdkey len data s
  | .ldblk len data => Sys2Proof.Machine.execLdblk len data s
  | .enc len data => Sys2Proof.Machine.execEnc len data s
  | .rdout len data => Sys2Proof.Machine.execRdout len data s
  | .exp len data => Sys2Proof.Machine.execExp len data s
  | .mix len data => Sys2Proof.Machine.execMix len data s
  | .sub len data => Sys2Proof.Machine.execSub len data s
  | .prm len data => Sys2Proof.Machine.execPrm len data s
  | .rf len data => Sys2Proof.Machine.execRf len data s
  | .rdst len data => Sys2Proof.Machine.execRdst len data s
  | .reservedB len data => Sys2Proof.Machine.execReservedB len data s
  | .reservedC len data => Sys2Proof.Machine.execReservedC len data s
  | .reservedD len data => Sys2Proof.Machine.execReservedD len data s
  | .reservedE len data => Sys2Proof.Machine.execReservedE len data s
  | .reservedF len data => Sys2Proof.Machine.execReservedF len data s

end Sys2Proof.Machine
end

