-- ==== Sys2Proof/Machine/Step.lean ====
section
/-! DEFINITION. One step (30_encoding.md R61, 70_reset_and_hazards.md R210): the host's next move is a command, which
is decoded and executed, or a reset; with no move nothing happens (log 11). -/

namespace Sys2Proof.Machine

/-- R61, R210, R19: one command or one reset a step, each whole before the next (20_memory.md R51). -/
def step (s : State) : Host.Outcome State Fault Refusal :=
  match s.host with
  | [] => .next s
  | .command w :: rest => exec (decode w) { s with host := rest }
  | .reset :: rest => .next ({ s with host := rest }).hostReset

/-- `s` with the command word whose bits are `w`, the lowest `nbits` of them, presented as the host's next move
(logs 5, 12). A number that is no command word is presented to nothing: no such transfer exists. -/
def State.withFetchWord (s : State) (nbits w : Nat) : State :=
  match commandWord (w % 2 ^ nbits) with
  | .ok cw => { s with host := .command cw :: s.host }
  | .error _ => s

end Sys2Proof.Machine
end

