-- ==== Sys2Proof/Machine/Assembler.lean ====
section
/-! DEFINITION. The assembler syntax and the pseudo-instructions (30_encoding.md R70, R71): lines as data, what each
assembles to, and the reader of one line of text. No rule of the hardware rests on it. -/

namespace Sys2Proof

/-- R62: the eleven mnemonics; a reserved opcode has none (R70). -/
inductive Mnemonic where
  | nop | ldkey | ldblk | enc | rdout | exp | mix | sub | prm | rf | rdst
  deriving DecidableEq, Repr

/-- R14: a sized literal. -/
inductive Literal where
  /-- `n'hX`, with `x` the number X. -/
  | hex (n x : Nat)
  /-- `n'bB`, with `v` the digits as written; `n` is their number. -/
  | bin (v : Bits)
  deriving DecidableEq, Repr

/-- R70, R71: one line. -/
inductive AsmLine where
  /-- A line that holds no command (empty, or only a comment). -/
  | blank
  /-- `MNEM`. -/
  | plain (m : Mnemonic)
  /-- `MNEM n'hX` or `MNEM n'bB`. -/
  | sized (m : Mnemonic) (a : Literal)
  /-- `MNEM len, 0xX`. -/
  | explicit (m : Mnemonic) (len x : Nat)
  /-- `.word 0xW`. -/
  | word (w : Nat)
  /-- `ENCRYPT b, k`. -/
  | encrypt (b k : Literal)
  /-- `ROUNDF r, k`. -/
  | roundf (r k : Literal)
  /-- `XOR48 a, b`. -/
  | xor48 (a b : Literal)
  deriving DecidableEq, Repr

/-- Why a line is none of R70's and R71's forms. Log 8; safe. -/
inductive AsmError where
  /-- The text has none of the forms. -/
  | syntaxError
  /-- The bare form stands for NOP, ENC, RDOUT and RDST only. -/
  | needsOperand
  /-- The sized form stands for format V only. -/
  | takesNoOperand
  /-- The sized form has `n <= 64`. -/
  | operandTooLong
  /-- The literal's number needs more than `n` bits. -/
  | valueTooWide
  /-- `len` is 0..255. -/
  | lenTooLarge
  /-- `data` is below 2^64. -/
  | dataTooLarge
  /-- A word is below 2^76. -/
  | wordTooLarge
  deriving DecidableEq, Repr

/-- R62. -/
def Mnemonic.op : Mnemonic → BitVec 4
  | .nop => 0x0#4
  | .ldkey => 0x1#4
  | .ldblk => 0x2#4
  | .enc => 0x3#4
  | .rdout => 0x4#4
  | .exp => 0x5#4
  | .mix => 0x6#4
  | .sub => 0x7#4
  | .prm => 0x8#4
  | .rf => 0x9#4
  | .rdst => 0xA#4

/-- R63: format V. -/
def Mnemonic.isV : Mnemonic → Bool
  | .ldkey | .ldblk | .exp | .mix | .sub | .prm | .rf => true
  | .nop | .enc | .rdout | .rdst => false

/-- R14: the length a literal declares. -/
def Literal.length : Literal → Nat
  | .hex n _ => n
  | .bin v => v.length

/-- R14: the number a literal spells. -/
def Literal.value : Literal → Nat
  | .hex _ x => x
  | .bin v => LayerF.val v

/-- R70: `MNEM n'hX` and `MNEM n'bB`; `n` is not compared with `need(op)`. -/
def assembleSized (m : Mnemonic) (a : Literal) : Except AsmError CommandWord :=
  if m.isV = false then .error .takesNoOperand
  else if 64 < a.length then .error .operandTooLong
  else if 2 ^ a.length ≤ a.value then .error .valueTooWide
  else .ok (makeWord m.op (BitVec.ofNat 8 a.length) (BitVec.ofNat 64 a.value))

/-- R70, R71: the command words a line assembles to, in order. -/
def assemble : AsmLine → Except AsmError (List CommandWord)
  | .blank => .ok []
  | .plain m => if m.isV then .error .needsOperand else .ok [makeWord m.op 0#8 0#64]
  | .sized m a => do
    let w ← assembleSized m a
    .ok [w]
  | .explicit m len x =>
    if 255 < len then .error .lenTooLarge
    else if 2 ^ 64 ≤ x then .error .dataTooLarge
    else .ok [makeWord m.op (BitVec.ofNat 8 len) (BitVec.ofNat 64 x)]
  | .word w => if w < 2 ^ 76 then .ok [BitVec.ofNat 76 w] else .error .wordTooLarge
  | .encrypt b k => do
    let w1 ← assembleSized .ldblk b
    let w2 ← assembleSized .ldkey k
    .ok [w1, w2, makeWord Mnemonic.enc.op 0#8 0#64]
  | .roundf r k => do
    let w1 ← assembleSized .ldkey k
    let w2 ← assembleSized .rf r
    .ok [w1, w2]
  | .xor48 a b => do
    let w1 ← assembleSized .ldkey b
    let w2 ← assembleSized .mix a
    .ok [w1, w2]

/-- A hexadecimal digit, capital or small (log 8). -/
def hexDigit (c : Char) : Option Nat :=
  if 48 ≤ c.toNat ∧ c.toNat ≤ 57 then some (c.toNat - 48)
  else if 65 ≤ c.toNat ∧ c.toNat ≤ 70 then some (c.toNat - 55)
  else if 97 ≤ c.toNat ∧ c.toNat ≤ 102 then some (c.toNat - 87)
  else none

/-- Digits of a base after the number read so far; none where a character is no digit of the base. -/
def readDigits (base : Nat) (acc : Nat) : List Char → Option Nat
  | [] => some acc
  | c :: cs =>
    match hexDigit c with
    | some d => if d < base then readDigits base (acc * base + d) cs else none
    | none => none

/-- A number of at least one digit. -/
def readNumber (base : Nat) (cs : List Char) : Option Nat :=
  if cs.isEmpty then none else readDigits base 0 cs

/-- `0xX`. -/
def readHex : List Char → Option Nat
  | '0' :: 'x' :: cs => readNumber 16 cs
  | _ => none

/-- Binary digits as written. -/
def readBits : List Char → Option Bits
  | [] => some []
  | c :: cs =>
    match readBits cs with
    | some v => if c = '0' then some (false :: v) else if c = '1' then some (true :: v) else none
    | none => none

/-- R14: `n'hX` or `n'bB`, a `bin` having exactly `n` digits. -/
def readLiteral (cs : List Char) : Option Literal :=
  match readNumber 10 (cs.takeWhile fun c => c != '\''), cs.dropWhile fun c => c != '\'' with
  | some n, _ :: 'h' :: ds =>
    match readNumber 16 ds with
    | some x => some (.hex n x)
    | none => none
  | some n, _ :: 'b' :: ds =>
    match readBits ds with
    | some v => if v.length = n then some (.bin v) else none
    | none => none
  | _, _ => none

/-- The words of a line and its commas; `word` is the word being read, reversed. -/
def readTokens (word : List Char) : List Char → List (List Char)
  | [] => if word.isEmpty then [] else [word.reverse]
  | c :: cs =>
    if c = ' ' ∨ c = '\t' then
      (if word.isEmpty then [] else [word.reverse]) ++ readTokens [] cs
    else if c = ',' then
      (if word.isEmpty then [] else [word.reverse]) ++ [','] :: readTokens [] cs
    else readTokens (c :: word) cs

/-- R62, R70: the mnemonics as they are written. -/
def readMnemonic (w : List Char) : Option Mnemonic :=
  if w = ['N', 'O', 'P'] then some .nop
  else if w = ['L', 'D', 'K', 'E', 'Y'] then some .ldkey
  else if w = ['L', 'D', 'B', 'L', 'K'] then some .ldblk
  else if w = ['E', 'N', 'C'] then some .enc
  else if w = ['R', 'D', 'O', 'U', 'T'] then some .rdout
  else if w = ['E', 'X', 'P'] then some .exp
  else if w = ['M', 'I', 'X'] then some .mix
  else if w = ['S', 'U', 'B'] then some .sub
  else if w = ['P', 'R', 'M'] then some .prm
  else if w = ['R', 'F'] then some .rf
  else if w = ['R', 'D', 'S', 'T'] then some .rdst
  else none

/-- R71: the pseudo-instructions as they are written. -/
def readPseudo (w : List Char) (x y : Literal) : Option AsmLine :=
  if w = ['E', 'N', 'C', 'R', 'Y', 'P', 'T'] then some (.encrypt x y)
  else if w = ['R', 'O', 'U', 'N', 'D', 'F'] then some (.roundf x y)
  else if w = ['X', 'O', 'R', '4', '8'] then some (.xor48 x y)
  else none

/-- The form of a line, from its tokens. -/
def readForm : List (List Char) → Option AsmLine
  | [] => some .blank
  | [w] => (readMnemonic w).map .plain
  | [w, a] =>
    if w = ['.', 'w', 'o', 'r', 'd'] then (readHex a).map .word
    else
      match readMnemonic w, readLiteral a with
      | some m, some l => some (.sized m l)
      | _, _ => none
  | [w, a, [','], b] =>
    match readMnemonic w, readNumber 10 a, readHex b with
    | some m, some len, some x => some (.explicit m len x)
    | _, _, _ =>
      match readLiteral a, readLiteral b with
      | some x, some y => readPseudo w x y
      | _, _ => none
  | _ => none

/-- R70: one line of text; `;` starts a comment. -/
def readLine (text : List Char) : Except AsmError AsmLine :=
  match readForm (readTokens [] (text.takeWhile fun c => c != ';')) with
  | some l => .ok l
  | none => .error .syntaxError

/-- R70, R71: the command words of one line of text. -/
def assembleText (text : List Char) : Except AsmError (List CommandWord) := do
  let l ← readLine text
  assemble l

end Sys2Proof
end

