-- ==== Sys2Proof/Safety.lean ====
section
/-! DEFINITION. What claims speak of: which fault a command takes, read off the tables of the spec and not off the
meanings (30_encoding.md R61, R63); the invariant of STATUS and of the responses (10_state.md R25 to R27,
60_exceptions.md R180, R189); what a host can tell apart (10_state.md R31); a run (00_scope.md R19). -/

namespace Sys2Proof.Machine

/-- R63: `need(op)`, the required operand length of a command of format V. -/
def neededLength : Instr → Option Nat
  | .ldkey _ _ => some 48
  | .ldblk _ _ => some 64
  | .exp _ _ => some 32
  | .mix _ _ => some 48
  | .sub _ _ => some 48
  | .prm _ _ => some 32
  | .rf _ _ => some 32
  | .nop _ _ => none
  | .enc _ _ => none
  | .rdout _ _ => none
  | .rdst _ _ => none
  | .reservedB _ _ => none
  | .reservedC _ _ => none
  | .reservedD _ _ => none
  | .reservedE _ _ => none
  | .reservedF _ _ => none

/-- R61: `lencause(op)`; `none` for a command without an operand. -/
def lengthCause : Instr → Cause
  | .ldkey _ _ => .lenXor
  | .mix _ _ => .lenXor
  | .ldblk _ _ => .lenBlock
  | .rf _ _ => .lenHalf
  | .exp _ _ => .lenStage
  | .sub _ _ => .lenStage
  | .prm _ _ => .lenStage
  | .nop _ _ => .none
  | .enc _ _ => .none
  | .rdout _ _ => .none
  | .rdst _ _ => .none
  | .reservedB _ _ => .none
  | .reservedC _ _ => .none
  | .reservedD _ _ => .none
  | .reservedE _ _ => .none
  | .reservedF _ _ => .none

/-- R61: some register the command reads has its valid flag 0: KEY for ENC, MIX, RF; BLOCK for ENC; OUT for RDOUT. -/
def readsUnloaded (i : Instr) (s : State) : Bool :=
  match i with
  | .enc _ _ => !s.kv || !s.bv
  | .mix _ _ => !s.kv
  | .rf _ _ => !s.kv
  | .rdout _ _ => !s.ov
  | .nop _ _ => false
  | .ldkey _ _ => false
  | .ldblk _ _ => false
  | .exp _ _ => false
  | .sub _ _ => false
  | .prm _ _ => false
  | .rdst _ _ => false
  | .reservedB _ _ => false
  | .reservedC _ _ => false
  | .reservedD _ _ => false
  | .reservedE _ _ => false
  | .reservedF _ _ => false

/-- R61, R187: the cause a command faults with, if it does: opcode first, then length, then valid flags. -/
def firstFault (i : Instr) (s : State) : Option Cause :=
  if 0xB ≤ i.op.toNat then some .illegalOp
  else if (neededLength i).any fun n => i.len.toNat != n then some (lengthCause i)
  else if readsUnloaded i s then some .notLoaded
  else none

/-- R68: the length of a command's result on success. -/
def resultLength : Instr → Nat
  | .nop _ _ => 0
  | .ldkey _ _ => 0
  | .ldblk _ _ => 0
  | .enc _ _ => 64
  | .rdout _ _ => 64
  | .exp _ _ => 48
  | .mix _ _ => 48
  | .sub _ _ => 32
  | .prm _ _ => 32
  | .rf _ _ => 32
  | .rdst _ _ => 8
  | .reservedB _ _ => 0
  | .reservedC _ _ => 0
  | .reservedD _ _ => 0
  | .reservedE _ _ => 0
  | .reservedF _ _ => 0

/-- R68: the word of a successful response with the given `len` and `data`. -/
def okWord (len : BitVec 8) (data : BitVec 64) : ResponseWord :=
  Response.word { err := false, cause := .none, len := len, data := data }

/-- R68, R180, R189: a response word the block can give: a success has cause 0, one of the result lengths and no bit at
or above it; a fault has one of the six causes, no length and no data. -/
abbrev ResponseOk (w : ResponseWord) : Prop :=
  (rspErr w = false →
    rspCause w = 0#3 ∧ (rspLen w).toNat ∈ [0, 8, 32, 48, 64] ∧ (rspData w).toNat < 2 ^ (rspLen w).toNat) ∧
  (rspErr w = true →
    1 ≤ (rspCause w).toNat ∧ (rspCause w).toNat ≤ 6 ∧ rspLen w = 0#8 ∧ rspData w = 0#64)

/-- R25, R27, R180: bit 7 reads 0, code 7 never stands in CAUSE, and CAUSE is 0 exactly while no fault is recorded;
OV is set only by an ENC, which needs KV and BV, and no flag goes back (R26). -/
abbrev State.StatusOk (s : State) : Prop :=
  statusBit7 s.status = false ∧ s.cause ≠ 7#3 ∧ (s.err = false ↔ s.cause = 0#3) ∧
    (s.ov = true → s.kv = true ∧ s.bv = true)

/-- The invariant of a run. -/
def State.Inv (s : State) : Prop := s.StatusOk ∧ ∀ w ∈ s.responses, ResponseOk w

/-- R27: no fault was recorded. -/
abbrev State.NoFaultRecorded (s : State) : Prop := s.err = false

/-- R31, U2: two states that differ at most in registers whose valid flag is 0, and in the opaque values still to come. -/
abbrev State.AgreeOnLoaded (s t : State) : Prop :=
  s.status = t.status ∧ s.host = t.host ∧ s.responses = t.responses ∧
    (s.kv = true → s.key = t.key) ∧ (s.bv = true → s.block = t.block) ∧ (s.ov = true → s.out = t.out)

/-- R19: `s` with the host about to send these command words, in this order, and nothing after them. -/
def State.sending (s : State) (ws : List CommandWord) : State := { s with host := ws.map HostEvent.command }

/-- R19: the number of commands among the host's moves. -/
def commandCount : List HostEvent → Nat
  | [] => 0
  | .command _ :: rest => commandCount rest + 1
  | .reset :: rest => commandCount rest

/-- R150, R153: the halves of a block exchanged, as a register's content. -/
def swapHalves (b : BitVec 64) : BitVec 64 := b.extractLsb' 0 32 ++ b.extractLsb' 32 32

end Sys2Proof.Machine
end

