-- ==== Sys2Proof/Certificates/Slice0/Obligations.lean ====
section
/-! DEFINITION. The statements for the provers. Each docstring names the rule of spec/ it formalises. A statement about
"any tables" is quantified over `Config.TableConfig`; a statement about `exec` is about the machine's own
`Config.tables`, and where it depends on the default entries (log 6) its docstring says so. -/

open Sys2Proof Sys2Proof.Machine

/- ---- Encoding: 30_encoding.md sections 2 and 3 ---- -/

/-- 30_encoding.md sections 2, 3: commands and 76-bit words correspond one to one; no bit of a word is lost, the
ignored ones included. -/
def Obligations.EncodingIsABijection : Prop :=
  (∀ i : Instr, decode (encode i) = i) ∧ (∀ w : CommandWord, encode (decode w) = w)

/-- R60, the fields of a word and its example; and which command each `op` of the opcode map (30_encoding.md section 3)
selects, `op` alone. -/
def Obligations.OpcodeSelectsTheCommand : Prop :=
  (∀ w : CommandWord,
    (w.extractLsb' 72 4 = 0x0#4 → decode w = .nop (w.extractLsb' 64 8) (w.extractLsb' 0 64)) ∧
    (w.extractLsb' 72 4 = 0x1#4 → decode w = .ldkey (w.extractLsb' 64 8) (w.extractLsb' 0 64)) ∧
    (w.extractLsb' 72 4 = 0x2#4 → decode w = .ldblk (w.extractLsb' 64 8) (w.extractLsb' 0 64)) ∧
    (w.extractLsb' 72 4 = 0x3#4 → decode w = .enc (w.extractLsb' 64 8) (w.extractLsb' 0 64)) ∧
    (w.extractLsb' 72 4 = 0x4#4 → decode w = .rdout (w.extractLsb' 64 8) (w.extractLsb' 0 64)) ∧
    (w.extractLsb' 72 4 = 0x5#4 → decode w = .exp (w.extractLsb' 64 8) (w.extractLsb' 0 64)) ∧
    (w.extractLsb' 72 4 = 0x6#4 → decode w = .mix (w.extractLsb' 64 8) (w.extractLsb' 0 64)) ∧
    (w.extractLsb' 72 4 = 0x7#4 → decode w = .sub (w.extractLsb' 64 8) (w.extractLsb' 0 64)) ∧
    (w.extractLsb' 72 4 = 0x8#4 → decode w = .prm (w.extractLsb' 64 8) (w.extractLsb' 0 64)) ∧
    (w.extractLsb' 72 4 = 0x9#4 → decode w = .rf (w.extractLsb' 64 8) (w.extractLsb' 0 64)) ∧
    (w.extractLsb' 72 4 = 0xA#4 → decode w = .rdst (w.extractLsb' 64 8) (w.extractLsb' 0 64)) ∧
    (w.extractLsb' 72 4 = 0xB#4 → decode w = .reservedB (w.extractLsb' 64 8) (w.extractLsb' 0 64)) ∧
    (w.extractLsb' 72 4 = 0xC#4 → decode w = .reservedC (w.extractLsb' 64 8) (w.extractLsb' 0 64)) ∧
    (w.extractLsb' 72 4 = 0xD#4 → decode w = .reservedD (w.extractLsb' 64 8) (w.extractLsb' 0 64)) ∧
    (w.extractLsb' 72 4 = 0xE#4 → decode w = .reservedE (w.extractLsb' 64 8) (w.extractLsb' 0 64)) ∧
    (w.extractLsb' 72 4 = 0xF#4 → decode w = .reservedF (w.extractLsb' 64 8) (w.extractLsb' 0 64))) ∧
  decode 0x13000001B02EFFC7072#76 = .ldkey 48#8 0x00001B02EFFC7072#64

/-- The command words the spec writes out for one command of each family. -/
def Obligations.WrittenOutWordsDecode : Prop :=
  decode 0x0000000000000000000#76 = .nop 0#8 0#64 ∧
  decode 0x13000001B02EFFC7072#76 = .ldkey 48#8 0x1B02EFFC7072#64 ∧
  decode 0x240CC00CCFFF0AAF0AA#76 = .ldblk 64#8 0xCC00CCFFF0AAF0AA#64 ∧
  decode 0x23F0000000000000000#76 = .ldblk 63#8 0#64 ∧
  decode 0x3000000000000000000#76 = .enc 0#8 0#64 ∧
  decode 0x4000000000000000000#76 = .rdout 0#8 0#64 ∧
  decode 0x52000000000F0AAF0AA#76 = .exp 32#8 0xF0AAF0AA#64 ∧
  decode 0x63000007A15557A1555#76 = .mix 48#8 0x7A15557A1555#64 ∧
  decode 0x73000006117BA866527#76 = .sub 48#8 0x6117BA866527#64 ∧
  decode 0x820000000005C82B597#76 = .prm 32#8 0x5C82B597#64 ∧
  decode 0x92000000000F0AAF0AA#76 = .rf 32#8 0xF0AAF0AA#64 ∧
  decode 0xA110000000000000123#76 = .rdst 17#8 0x123#64 ∧
  decode 0xC30FFFFFFFFFFFFFFFF#76 = .reservedC 48#8 0xFFFFFFFFFFFFFFFF#64

/-- The model's form of the decoder on numbers (log 12): a command word's number decodes as the word, and a number that
needs more than 76 bits is rejected by name. -/
def Obligations.NumbersBeyondAWordAreRejected : Prop :=
  (∀ w : CommandWord, decodeNumber w.toNat = .ok (decode w)) ∧
  (∀ x : Nat, 2 ^ 76 ≤ x → decodeNumber x = .error .notACommandWord)

/-- R66: format N ignores `len` and `data`, and the assembler emits them as zero. -/
def Obligations.FormatNIgnoresItsFields : Prop :=
  (∀ (len len' : BitVec 8) (data data' : BitVec 64) (s : State),
    exec (.nop len data) s = exec (.nop len' data') s ∧
    exec (.enc len data) s = exec (.enc len' data') s ∧
    exec (.rdout len data) s = exec (.rdout len' data') s ∧
    exec (.rdst len data) s = exec (.rdst len' data') s) ∧
  (∀ m : Mnemonic, m.isV = false →
    ∃ w, assemble (.plain m) = .ok [w] ∧ wordOp w = m.op ∧ wordLen w = 0#8 ∧ wordData w = 0#64)

/-- R65: the operand of length `n` is `data[n-1:0]`, first element at `data[n-1]`, and the bits above are ignored. -/
def Obligations.OperandIsTheLowDataBits : Prop :=
  (∀ (n : Nat) (data : BitVec 64), n ≤ 64 →
    (LayerF.take n data).length = n ∧
    ∀ p < n, (LayerF.take n data)[p]? = some (data.getLsbD (n - 1 - p))) ∧
  (∀ (len : BitVec 8) (d d' : BitVec 64) (s : State),
    ((∀ j < 48, d.getLsbD j = d'.getLsbD j) →
      exec (.ldkey len d) s = exec (.ldkey len d') s ∧
      exec (.mix len d) s = exec (.mix len d') s ∧
      exec (.sub len d) s = exec (.sub len d') s) ∧
    ((∀ j < 32, d.getLsbD j = d'.getLsbD j) →
      exec (.exp len d) s = exec (.exp len d') s ∧
      exec (.prm len d) s = exec (.prm len d') s ∧
      exec (.rf len d) s = exec (.rf len d') s)) ∧
  (∀ (data : BitVec 64) (s : State), ∃ t, exec (.ldblk 64#8 data) s = .next t ∧ t.block = data)

/-- R64, R182, R183, R184, R185: a declared length other than `need(op)` is the length fault of the opcode, whatever
`data` and the state are; a length above 64 always is one. -/
def Obligations.WrongLengthIsALengthFault : Prop :=
  (∀ (len : BitVec 8) (data : BitVec 64) (s : State),
    (len ≠ 48#8 → exec (.ldkey len data) s = .next (s.raiseFault .lenXor)) ∧
    (len ≠ 48#8 → exec (.mix len data) s = .next (s.raiseFault .lenXor)) ∧
    (len ≠ 64#8 → exec (.ldblk len data) s = .next (s.raiseFault .lenBlock)) ∧
    (len ≠ 32#8 → exec (.rf len data) s = .next (s.raiseFault .lenHalf)) ∧
    (len ≠ 32#8 → exec (.exp len data) s = .next (s.raiseFault .lenStage)) ∧
    (len ≠ 32#8 → exec (.prm len data) s = .next (s.raiseFault .lenStage)) ∧
    (len ≠ 48#8 → exec (.sub len data) s = .next (s.raiseFault .lenStage))) ∧
  (∀ (i : Instr) (n : Nat) (s : State), neededLength i = some n → 64 < i.len.toNat →
    exec i s = .next (s.raiseFault (lengthCause i))) ∧
  Cause.lenXor.code = 2#3 ∧ Cause.lenBlock.code = 3#3 ∧ Cause.lenHalf.code = 4#3 ∧ Cause.lenStage.code = 5#3

/-- R181: every word with `op` 0xB to 0xF raises ILLEGAL_OP, code 1, whatever `len`, `data` and the state are. -/
def Obligations.ReservedOpcodesRaiseIllegalOp : Prop :=
  (∀ (w : CommandWord) (s : State), 0xB ≤ (wordOp w).toNat → exec (decode w) s = .next (s.raiseFault .illegalOp)) ∧
  (∀ (len : BitVec 8) (data : BitVec 64) (s : State),
    exec (.reservedB len data) s = .next (s.raiseFault .illegalOp) ∧
    exec (.reservedC len data) s = .next (s.raiseFault .illegalOp) ∧
    exec (.reservedD len data) s = .next (s.raiseFault .illegalOp) ∧
    exec (.reservedE len data) s = .next (s.raiseFault .illegalOp) ∧
    exec (.reservedF len data) s = .next (s.raiseFault .illegalOp)) ∧
  Cause.illegalOp.code = 1#3

/-- R68: the layout of a response word, and the one response of every command: on a fault no length and no data, on
success cause 0, the command's result length, and no bit at or above it. -/
def Obligations.ResponseWordFields : Prop :=
  (∀ r : Response,
    r.word.extractLsb' 75 1 = BitVec.ofBool r.err ∧ r.word.extractLsb' 72 3 = r.cause.code ∧
    r.word.extractLsb' 64 8 = r.len ∧ r.word.extractLsb' 0 64 = r.data) ∧
  (∀ (i : Instr) (s t : State), exec i s = .next t →
    ∃ w : ResponseWord, t.responses = s.responses ++ [w] ∧
      (w.getLsbD 75 = true → w.extractLsb' 64 8 = 0#8 ∧ w.extractLsb' 0 64 = 0#64 ∧
        1 ≤ (w.extractLsb' 72 3).toNat ∧ (w.extractLsb' 72 3).toNat ≤ 6 ∧
        (w.extractLsb' 72 4).toNat = 8 + (w.extractLsb' 72 3).toNat) ∧
      (w.getLsbD 75 = false → w.extractLsb' 72 4 = 0#4 ∧ (w.extractLsb' 64 8).toNat = resultLength i ∧
        (w.extractLsb' 0 64).toNat < 2 ^ resultLength i))

/- ---- The step ---- -/

/-- 30_encoding.md section 3 (the step), in the model's form (log 1): the word the host presents next is decoded and
executed, with the word taken off the host's list first. -/
def Obligations.StepRunsTheDecodedCommand : Prop :=
  ∀ (s : State) (w : CommandWord) (rest : List HostEvent), s.host = .command w :: rest →
    step s = exec (decode w) { s with host := rest }

/-- 70_reset_and_hazards.md section 1 and the model's choice for a step with no move (log 11): a reset clears STATUS
and answers nothing; with no move the state stays. -/
def Obligations.StepOfResetAndOfNoMove : Prop :=
  (∀ (s : State) (rest : List HostEvent), s.host = .reset :: rest →
    ∃ t, step s = .next t ∧ t.status = 0#8 ∧ t.host = rest ∧ t.responses = s.responses) ∧
  (∀ s : State, s.host = [] → step s = .next s)

/-- R187: opcode, then length, then valid flags; the first condition that holds is the cause. With none the command
succeeds (R61, the step), answers its result length (R68) and leaves ERR and CAUSE as they were (R27). -/
def Obligations.FirstFailingCheckIsTheCause : Prop :=
  (∀ (i : Instr) (s : State) (c : Cause), firstFault i s = some c → exec i s = .next (s.raiseFault c)) ∧
  (∀ (i : Instr) (s : State), firstFault i s = none →
    ∃ t len data, exec i s = .next t ∧ t.responses = s.responses ++ [okWord len data] ∧
      len.toNat = resultLength i ∧ t.err = s.err ∧ t.cause = s.cause) ∧
  exec (.mix 47#8 0#64) State.reset = .next (State.reset.raiseFault .lenXor) ∧
  exec (.rf 32#8 0#64) State.reset = .next (State.reset.raiseFault .notLoaded)

/-- 60_exceptions.md section 1 (R200): every command in every state answers, and can fail only with one of the six
causes. That no step of the machine stops rests, for a state with no host move, on the model's choice of log 11. -/
def Obligations.EveryCommandAnswers : Prop :=
  (∀ (w : CommandWord) (s : State), ∃ t r, exec (decode w) s = .next t ∧ t.responses = s.responses ++ [r] ∧
    (rspErr r = true → rspCause r ∈ [Cause.illegalOp.code, Cause.lenXor.code, Cause.lenBlock.code,
      Cause.lenHalf.code, Cause.lenStage.code, Cause.notLoaded.code])) ∧
  (∀ s : State, ∃ t, step s = .next t)

/-- 00_scope.md section 6, 20_memory.md section 3, in the model's form (the host's moves as a list, log 1; the responses
as a list, log 2): a run of all the host's moves ends with every move made and exactly one response for each command,
none for a reset. -/
def Obligations.RunAnswersEachCommandOnce : Prop :=
  ∀ s : State, ∃ t rs, Host.Core.run Sys2Proof.core s.host.length s = .next t ∧ t.host = [] ∧
    t.responses = s.responses ++ rs ∧ rs.length = commandCount s.host

/- ---- Assembler: 30_encoding.md section 6 ---- -/

/-- 30_encoding.md section 6, the four forms of a line and the comment; `n` is not compared with the needed length. -/
def Obligations.AssemblerForms : Prop :=
  (∀ (m : Mnemonic) (n x : Nat), m.isV = true → n ≤ 64 → x < 2 ^ n →
    ∃ w, assemble (.sized m (.hex n x)) = .ok [w] ∧ wordOp w = m.op ∧ (wordLen w).toNat = n ∧
      (wordData w).toNat = x) ∧
  (∀ (m : Mnemonic) (v : Bits), m.isV = true → v.length ≤ 64 →
    ∃ w, assemble (.sized m (.bin v)) = .ok [w] ∧ wordOp w = m.op ∧ (wordLen w).toNat = v.length ∧
      (wordData w).toNat = LayerF.val v) ∧
  (∀ (m : Mnemonic) (len x : Nat), len ≤ 255 → x < 2 ^ 64 →
    ∃ w, assemble (.explicit m len x) = .ok [w] ∧ wordOp w = m.op ∧ (wordLen w).toNat = len ∧
      (wordData w).toNat = x) ∧
  (∀ x : Nat, x < 2 ^ 76 → ∃ w, assemble (.word x) = .ok [w] ∧ w.toNat = x) ∧
  (∀ text comment : List Char, ';' ∉ text → assembleText (text ++ ';' :: comment) = assembleText text)

/-- 30_encoding.md section 6, the pseudo-instructions: what each expands to, and what running the expansion on the
machine from any state leaves and answers. -/
def Obligations.PseudoInstructionsCompute : Prop :=
  ∀ (s : State) (b : BitVec 64) (r : BitVec 32) (a k : BitVec 48),
    (∃ t y, assemble (.encrypt (.hex 64 b.toNat) (.hex 48 k.toNat)) =
        .ok [encode (.ldblk 64#8 b), encode (.ldkey 48#8 (k.setWidth 64)), encode (.enc 0#8 0#64)] ∧
      Host.Core.run Sys2Proof.core 3 (s.sending
        [encode (.ldblk 64#8 b), encode (.ldkey 48#8 (k.setWidth 64)), encode (.enc 0#8 0#64)]) = .next t ∧
      LayerF.encryptOneRound Config.tables.val (LayerF.ofReg b) (LayerF.ofReg k) = .ok (LayerF.ofReg y) ∧
      t.key = k ∧ t.block = b ∧ t.out = y ∧ t.responses = s.responses ++ [0#76, 0#76, okWord 64#8 y]) ∧
    (∃ t y, assemble (.roundf (.hex 32 r.toNat) (.hex 48 k.toNat)) =
        .ok [encode (.ldkey 48#8 (k.setWidth 64)), encode (.rf 32#8 (r.setWidth 64))] ∧
      Host.Core.run Sys2Proof.core 2 (s.sending
        [encode (.ldkey 48#8 (k.setWidth 64)), encode (.rf 32#8 (r.setWidth 64))]) = .next t ∧
      LayerF.roundFunction Config.tables.val (LayerF.ofReg r) (LayerF.ofReg k) = .ok (LayerF.ofReg (w := 32) y) ∧
      t.key = k ∧ t.responses = s.responses ++ [0#76, okWord 32#8 (y.setWidth 64)]) ∧
    (∃ t, assemble (.xor48 (.hex 48 a.toNat) (.hex 48 k.toNat)) =
        .ok [encode (.ldkey 48#8 (k.setWidth 64)), encode (.mix 48#8 (a.setWidth 64))] ∧
      Host.Core.run Sys2Proof.core 2 (s.sending
        [encode (.ldkey 48#8 (k.setWidth 64)), encode (.mix 48#8 (a.setWidth 64))]) = .next t ∧
      t.key = k ∧ t.responses = s.responses ++ [0#76, okWord 48#8 ((a ^^^ k).setWidth 64)])

/- ---- State ---- -/

/-- R26: KV, BV, OV only go from 0 to 1, a faulting command does not change them, only reset returns them to 0, and a
second load leaves the flag at 1 and replaces the register. -/
def Obligations.ValidFlagsOnlyRise : Prop :=
  (∀ (i : Instr) (s t : State), exec i s = .next t →
    (s.kv = true → t.kv = true) ∧ (s.bv = true → t.bv = true) ∧ (s.ov = true → t.ov = true) ∧
    (∀ w, t.responses = s.responses ++ [w] → rspErr w = true → t.kv = s.kv ∧ t.bv = s.bv ∧ t.ov = s.ov)) ∧
  (∀ s : State, s.hostReset.kv = false ∧ s.hostReset.bv = false ∧ s.hostReset.ov = false) ∧
  (∀ (s : State) (data : BitVec 64),
    (∃ t, exec (.ldkey 48#8 data) s = .next t ∧ t.kv = true ∧ t.key = data.extractLsb' 0 48) ∧
    (∃ t, exec (.ldblk 64#8 data) s = .next t ∧ t.bv = true ∧ t.block = data))

/-- 10_state.md section 3 (ERR sticky, CAUSE the latest fault's code; the last clause is the spec's own inference from
it): no command clears ERR, a faulting command leaves ERR 1 and its own code, a successful one leaves both. -/
def Obligations.FaultRecordIsSticky : Prop :=
  ∀ (i : Instr) (s t : State), exec i s = .next t →
    (s.err = true → t.err = true) ∧
    (∀ w, t.responses = s.responses ++ [w] →
      (rspErr w = true → t.err = true ∧ t.cause = rspCause w ∧ t.cause ≠ 0#3) ∧
      (rspErr w = false → t.err = s.err ∧ t.cause = s.cause)) ∧
    ((s.err = false → s.cause = 0#3) → t.err = false → t.cause = 0#3)

/-- 10_state.md section 1, over all commands: KEY changes only by a successful LDKEY, BLOCK only by a successful LDBLK,
OUT only by an ENC on loaded registers, each as a whole; and no command touches what the host still has to send. -/
def Obligations.EachRegisterHasOneWriter : Prop :=
  ∀ (i : Instr) (s t : State), exec i s = .next t →
    (t.key ≠ s.key → ∃ data, i = .ldkey 48#8 data ∧ t.key = data.extractLsb' 0 48) ∧
    (t.block ≠ s.block → ∃ data, i = .ldblk 64#8 data ∧ t.block = data) ∧
    (t.out ≠ s.out → ∃ len data, i = .enc len data ∧ s.kv = true ∧ s.bv = true) ∧
    t.host = s.host ∧ t.resets = s.resets

/-- R31: right after reset STATUS is 0 in every field, and every command that reads KEY, BLOCK or OUT faults, so that
their unspecified contents (log 3) are not readable; the same after every later reset. -/
def Obligations.ResetLeavesRegistersUnreadable : Prop :=
  ∀ s : State, (s = State.reset ∨ ∃ u : State, s = u.hostReset) →
    s.kv = false ∧ s.bv = false ∧ s.ov = false ∧ s.err = false ∧ s.cause = 0#3 ∧ statusBit7 s.status = false ∧
    (∀ (len : BitVec 8) (data : BitVec 64),
      exec (.enc len data) s = .next (s.raiseFault .notLoaded) ∧
      exec (.rdout len data) s = .next (s.raiseFault .notLoaded) ∧
      exec (.mix 48#8 data) s = .next (s.raiseFault .notLoaded) ∧
      exec (.rf 32#8 data) s = .next (s.raiseFault .notLoaded))

/-- 10_state.md section 3, 60_exceptions.md sections 1 and 3, 30_encoding.md section 5 (R68, the result lengths): every
step keeps the invariant: STATUS bit 7 reads 0, CAUSE is never 7 and is 0 exactly while ERR is 0, OV needs KV and BV,
and every response given is one the block can give. -/
def Obligations.StepKeepsTheInvariant : Prop :=
  ∀ s t : State, s.Inv → step s = .next t → t.Inv

/-- 10_state.md section 6: the machine right after reset meets the invariant. -/
def Obligations.ResetMeetsTheInvariant : Prop := State.reset.Inv

/-- 70_reset_and_hazards.md section 1, 93_implementation_defined.md U2: no run tells apart two states that differ only
in registers whose valid flag is 0: both runs go on, give the same responses and the same STATUS, and agree again on
every loaded register, whatever the resets in between leave behind. -/
def Obligations.UnloadedContentsAreUnobservable : Prop :=
  ∀ (n : Nat) (s t : State), s.AgreeOnLoaded t →
    ∃ s' t' : State, Host.Core.run Sys2Proof.core n s = .next s' ∧ Host.Core.run Sys2Proof.core n t = .next t' ∧
      s'.AgreeOnLoaded t'

/-- R46: bytes as a vector: byte `j` holds the positions `8j .. 8j+7`, the first of them in its most significant bit;
eight bytes are a block and six a key. -/
def Obligations.HostBytesAreBigEndian : Prop :=
  ∀ bytes : List (BitVec 8),
    (LayerF.ofBytes bytes).length = 8 * bytes.length ∧
    (∀ (j k : Nat) (b : BitVec 8), bytes[j]? = some b → k < 8 →
      (LayerF.ofBytes bytes)[8 * j + k]? = some (b.getLsbD (7 - k))) ∧
    (bytes.length = 8 → (LayerF.ofBytes bytes).length = 64) ∧ (bytes.length = 6 → (LayerF.ofBytes bytes).length = 48)

/-- R43: the S-ROM entry of three coordinates in range is a number in 0..15, and the flat address of the entry, split
into its three fields, reads the same entry. Any tables. -/
def Obligations.SboxRomReads : Prop :=
  ∀ (T : Config.TableConfig) (g row col : Nat), g < 8 → row < 4 → col < 16 →
    (∃ e, LayerF.romS T.val g row col = some e ∧ e ≤ 15 ∧
      (T.val.sBox[g]?.bind fun box => box[row]?.bind fun r => r[col]?) = some e) ∧
    (LayerF.sRomAddress g row col).toNat = g * 64 + row * 16 + col ∧
    ((LayerF.sRomAddress g row col).extractLsb' 6 3).toNat = g ∧
    ((LayerF.sRomAddress g row col).extractLsb' 4 2).toNat = row ∧
    ((LayerF.sRomAddress g row col).extractLsb' 0 4).toNat = col ∧
    LayerF.romSFlat T.val (LayerF.sRomAddress g row col) = LayerF.romS T.val g row col

/- ---- Layer F: 40_bitvector_utilities.md ---- -/

/-- 40_bitvector_utilities.md section 2 (`xor`; its reading in numbers is the spec's own inference). -/
def Obligations.XorOfVectors : Prop :=
  (∀ a b : Bits, a.length ≠ b.length → LayerF.xor a b = .error .lengthError) ∧
  (∀ a b : Bits, a.length = b.length →
    ∃ v, LayerF.xor a b = .ok v ∧ v.length = a.length ∧
      (∀ (p : Nat) (x y : Bool), a[p]? = some x → b[p]? = some y → v[p]? = some (x != y)) ∧
      LayerF.val v = LayerF.val a ^^^ LayerF.val b) ∧
  LayerF.xor [] [] = .ok []

/-- 40_bitvector_utilities.md section 2 (the laws of `xor`; associativity, identity and cancellation are the spec's own
inferences). -/
def Obligations.XorLaws : Prop :=
  ∀ a b c : Bits, a.length = b.length → b.length = c.length →
    LayerF.xor a b = LayerF.xor b a ∧
    LayerF.xor a a = .ok (List.replicate a.length false) ∧
    (LayerF.xor a b).bind (fun ab => LayerF.xor ab c) = (LayerF.xor b c).bind (fun bc => LayerF.xor a bc) ∧
    LayerF.xor a (List.replicate a.length false) = .ok a ∧
    (LayerF.xor a b).bind (fun ab => LayerF.xor ab b) = .ok a

/-- R83: `toDecimal` is the unsigned number of a vector, first element most significant; on the row and column
selectors its results lie in 0..3 and 0..15. -/
def Obligations.DecimalIsMostSignificantFirst : Prop :=
  (∀ v : Bits, LayerF.toDecimal v = ∑ p : Fin v.length, (v[p]).toNat * 2 ^ (v.length - 1 - p)) ∧
  LayerF.toDecimal [] = 0 ∧
  (∀ x : Bits, x.length = 6 → LayerF.row x ≤ 3 ∧ LayerF.col x ≤ 15) ∧
  LayerF.toDecimal [true, false] = 2 ∧ LayerF.toDecimal [false, true, true, false] = 6 ∧
  LayerF.toDecimal [true, false, false, false, false, true] = 33

/-- 40_bitvector_utilities.md section 2 (`toBinary`; the inverse laws are the spec's own inference): the digits most
significant first; a value that does not fit is refused, never truncated. -/
def Obligations.BinaryInvertsDecimal : Prop :=
  (∀ value width : Nat, value < 2 ^ width →
    ∃ v, LayerF.toBinary value width = .ok v ∧ v.length = width ∧
      (∀ p < width, v[p]? = some (value / 2 ^ (width - 1 - p) % 2 == 1)) ∧ LayerF.toDecimal v = value) ∧
  (∀ v : Bits, LayerF.toBinary (LayerF.toDecimal v) v.length = .ok v) ∧
  (∀ value width : Nat, 2 ^ width ≤ value → LayerF.toBinary value width = .error .outsideDomain)

/- ---- Layer F: 41_permutation.md ---- -/

/-- R100: the generic `permute`, for a table whose entries are 1-based indices: the length contract, the element each
output position receives, extra input ignored, the empty table. -/
def Obligations.PermuteSelectsByIndex : Prop :=
  ∀ (v : Bits) (table : List Nat), (∀ i ∈ table, 1 ≤ i) →
    ((∃ i ∈ table, v.length < i) → LayerF.permute v table = .error .lengthError) ∧
    ((∀ i ∈ table, i ≤ v.length) →
      (∃ out, LayerF.permute v table = .ok out ∧ out.length = table.length ∧
        ∀ p i : Nat, table[p]? = some i → out[p]? = v[i - 1]?) ∧
      ∀ extra : Bits, LayerF.permute (v ++ extra) table = LayerF.permute v table) ∧
    LayerF.permute v [] = .ok []

/-- R103: the two units take exactly 32 bits, even where the generic function would accept a longer vector. Any
tables. -/
def Obligations.UnitsTakeExactly32Bits : Prop :=
  ∀ (T : Config.TableConfig) (v : Bits),
    (v.length ≠ 32 → LayerF.expand T.val v = .error .lengthError ∧
      LayerF.finalPermute T.val v = .error .lengthError) ∧
    (v.length = 32 → (∃ x, LayerF.expand T.val v = .ok x ∧ x.length = 48) ∧
      ∃ x, LayerF.finalPermute T.val v = .ok x ∧ x.length = 32) ∧
    (32 < v.length → (∃ x, LayerF.permute v T.val.eTable = .ok x) ∧ ∃ x, LayerF.permute v T.val.pTable = .ok x)

/-- 41_permutation.md section 1 (linearity, the spec's own inference): for any table of indices within the inputs. -/
def Obligations.PermuteIsLinear : Prop :=
  ∀ (a b : Bits) (table : List Nat), a.length = b.length → (∀ i ∈ table, 1 ≤ i ∧ i ≤ a.length) →
    (LayerF.xor a b).bind (fun ab => LayerF.permute ab table) =
      (LayerF.permute a table).bind (fun pa => (LayerF.permute b table).bind fun pb => LayerF.xor pa pb) ∧
    ∀ c : Bool, LayerF.permute (List.replicate a.length c) table = .ok (List.replicate table.length c)

/-- 41_permutation.md section 3 (the spec's own inference from the bijection): the output permutation is one-to-one,
onto, and keeps the number of 1 bits. Any tables. -/
def Obligations.OutputPermutationIsABijection : Prop :=
  ∀ T : Config.TableConfig,
    (∀ a b : Bits, a.length = 32 → b.length = 32 →
      LayerF.finalPermute T.val a = LayerF.finalPermute T.val b → a = b) ∧
    (∀ y : Bits, y.length = 32 → ∃ a : Bits, a.length = 32 ∧ LayerF.finalPermute T.val a = .ok y) ∧
    (∀ a y : Bits, LayerF.finalPermute T.val a = .ok y → y.count true = a.count true)

/-- 41_permutation.md section 2 (structure of the default table, the spec's own inference; default tables, log 6): bit
`k` of group `g` is bit `4g+k` of the input in the 1-based numbering, wrapping at both ends. -/
def Obligations.ExpanderGroupsAreNibblesWithNeighbours : Prop :=
  ∀ r : Bits, r.length = 32 →
    ∃ x, LayerF.expand Config.defaultTables r = .ok x ∧
      ∀ g < 8, ∀ k < 6, x[6 * g + k]? = r[(4 * g + k + 31) % 32]?

/- ---- Layer F: 42_substitution.md ---- -/

/-- 42_substitution.md section 2: on 48 bits, output positions `4g .. 4g+3` are the entry of S-box `g` at the row of
the first and last bit and the column of the four middle bits of group `g`, most significant bit first, and the result
in numbers is those entries as hexadecimal digits (the spec's own inference); other lengths are the length error. Any
tables. -/
def Obligations.SubstituteLooksUpEachGroup : Prop :=
  ∀ (T : Config.TableConfig) (m : Bits),
    (m.length ≠ 48 → LayerF.substitute T.val m = .error .lengthError) ∧
    (m.length = 48 → ∃ y, LayerF.substitute T.val m = .ok y ∧ y.length = 32 ∧
      ∀ (g : Nat) (x0 x1 x2 x3 x4 x5 : Bool), g < 8 →
        (m.drop (6 * g)).take 6 = [x0, x1, x2, x3, x4, x5] →
        ∃ e, LayerF.romS T.val g (2 * x0.toNat + x5.toNat)
            (8 * x1.toNat + 4 * x2.toNat + 2 * x3.toNat + x4.toNat) = some e ∧ e ≤ 15 ∧
          (y.drop (4 * g)).take 4 = [e.testBit 3, e.testBit 2, e.testBit 1, e.testBit 0] ∧
          LayerF.val y / 16 ^ (7 - g) % 16 = e)

/-- 42_substitution.md section 2 (lanes, the spec's own inference): a lane's output depends on its own group only. Any
tables. -/
def Obligations.LanesAreIndependent : Prop :=
  ∀ (T : Config.TableConfig) (m m' y y' : Bits) (g : Nat), g < 8 →
    LayerF.substitute T.val m = .ok y → LayerF.substitute T.val m' = .ok y' →
    LayerF.group m g = LayerF.group m' g → (y.drop (4 * g)).take 4 = (y'.drop (4 * g)).take 4

/-- 42_substitution.md section 1 (the spec's own inference; default tables, log 6): every row of every S-box holds each
of 0..15 once, so `substitute` is onto the 32-bit vectors, whatever rows are asked for. -/
def Obligations.SubstituteIsOnto : Prop :=
  (∀ g < 8, ∀ row < 4, ∀ e < 16, ∃ col < 16, LayerF.romS Config.defaultTables g row col = some e ∧
    ∀ col' < 16, LayerF.romS Config.defaultTables g row col' = some e → col' = col) ∧
  (∀ y : Bits, y.length = 32 → ∃ m : Bits, m.length = 48 ∧ LayerF.substitute Config.defaultTables m = .ok y)

/- ---- Layer F: 43_round_function.md, 44_feistel_driver.md ---- -/

/-- R140: the length checks, half block first, and the four steps. Any tables. -/
def Obligations.RoundFunctionIsFourSteps : Prop :=
  ∀ (T : Config.TableConfig) (r k : Bits),
    (r.length ≠ 32 → LayerF.roundFunction T.val r k = .error .lengthError) ∧
    (r.length = 32 → k.length ≠ 48 → LayerF.roundFunction T.val r k = .error .lengthError) ∧
    (r.length = 32 → k.length = 48 →
      ∃ x m s f, LayerF.permute r T.val.eTable = .ok x ∧ x.length = 48 ∧
        LayerF.xor x k = .ok m ∧ m.length = 48 ∧
        LayerF.substitute T.val m = .ok s ∧ s.length = 32 ∧
        LayerF.permute s T.val.pTable = .ok f ∧ f.length = 32 ∧
        LayerF.roundFunction T.val r k = .ok f)

/-- 43_round_function.md section 1 (the spec's own inference): the round function depends on its arguments only through
the mixer's output. Any tables. -/
def Obligations.RoundFunctionDependsOnTheMix : Prop :=
  ∀ (T : Config.TableConfig) (r r' k k' x x' m : Bits),
    LayerF.expand T.val r = .ok x → LayerF.expand T.val r' = .ok x' →
    LayerF.xor x k = .ok m → LayerF.xor x' k' = .ok m →
    LayerF.roundFunction T.val r k = LayerF.roundFunction T.val r' k' ∧
    LayerF.roundFunction T.val r k = LayerF.roundFunction T.val (List.replicate 32 false) m

/-- R152: the structure of one round: the first half of the result is the old right half whatever the key, the second
is the round function of it mixed into the old left half. Any tables. -/
def Obligations.OneRoundSwapsAndMixes : Prop :=
  ∀ (T : Config.TableConfig) (b k : Bits), b.length = 64 → k.length = 48 →
    ∃ y f, LayerF.encryptOneRound T.val b k = .ok y ∧ y.length = 64 ∧
      LayerF.slice y 0 31 = LayerF.slice b 32 63 ∧
      LayerF.roundFunction T.val (LayerF.slice b 32 63) k = .ok f ∧
      LayerF.xor f (LayerF.slice b 0 31) = .ok (LayerF.slice y 32 63)

/-- 44_feistel_driver.md section 1 (`split`, `encryptOneRound`): a block of another length is the length error before
the key is looked at, then a key of another length is. Any tables. -/
def Obligations.OneRoundRejectsOtherLengths : Prop :=
  ∀ (T : Config.TableConfig) (b k : Bits),
    (b.length ≠ 64 → LayerF.split b = .error .lengthError ∧
      LayerF.encryptOneRound T.val b k = .error .lengthError) ∧
    (b.length = 64 → k.length ≠ 48 → LayerF.encryptOneRound T.val b k = .error .lengthError) ∧
    (b.length = 63 ∨ b.length = 65 → LayerF.encryptOneRound T.val b k = .error .lengthError)

/-- 44_feistel_driver.md section 1 (involution up to swap, the spec's own inference). Any tables. -/
def Obligations.OneRoundUndoesItselfUpToSwap : Prop :=
  ∀ (T : Config.TableConfig) (b k : Bits), b.length = 64 → k.length = 48 →
    ∃ y, LayerF.encryptOneRound T.val b k = .ok y ∧
      LayerF.encryptOneRound T.val (LayerF.swap y) k = .ok (LayerF.swap b)

/- ---- Commands ---- -/

/-- R170. -/
def Obligations.NopOnlyAnswers : Prop :=
  (∀ (len : BitVec 8) (data : BitVec 64) (s : State),
    exec (.nop len data) s = .next { s with responses := s.responses ++ [0x0000000000000000000#76] }) ∧
  decode 0x0000000000000000000#76 = .nop 0#8 0#64

/-- R171; that bit 7 is answered as 0 is stated where the invariant holds. No command clears ERR or CAUSE, and reset
does: the last two clauses. -/
def Obligations.RdstAnswersStatus : Prop :=
  (∀ (len : BitVec 8) (data : BitVec 64) (s : State),
    exec (.rdst len data) s =
      .next { s with responses := s.responses ++ [okWord 8#8 (s.status.setWidth 64)] } ∧
    (s.status.setWidth 64).getLsbD 0 = s.kv ∧ (s.status.setWidth 64).getLsbD 1 = s.bv ∧
    (s.status.setWidth 64).getLsbD 2 = s.ov ∧ (s.status.setWidth 64).getLsbD 3 = s.err ∧
    (s.status.setWidth 64).extractLsb' 4 3 = s.cause ∧
    (s.StatusOk → (s.status.setWidth 64).getLsbD 7 = false)) ∧
  (∃ t, exec (decode 0xA000000000000000000#76) State.reset = .next t ∧
    t.responses = [0x0080000000000000000#76]) ∧
  (∀ k b : BitVec 64, ∃ t r1 r2 r3 r5, Host.Core.run Sys2Proof.core 6 (State.reset.sending
      [encode (.ldkey 48#8 k), encode (.ldblk 64#8 b), encode (.enc 0#8 0#64), 0xA000000000000000000#76,
        0x23F0000000000000000#76, 0xA000000000000000000#76]) = .next t ∧
    t.responses = [r1, r2, r3, 0x0080000000000000007#76, r5, 0x008000000000000003F#76]) ∧
  (∀ (i : Instr) (s t : State), exec i s = .next t →
    (s.err = true → t.err = true) ∧ (s.cause ≠ 0#3 → t.cause ≠ 0#3)) ∧
  (∀ s : State, s.hostReset.err = false ∧ s.hostReset.cause = 0#3)

/-- R154. -/
def Obligations.LdkeyReplacesTheKey : Prop :=
  (∀ (data : BitVec 64) (s : State),
    exec (.ldkey 48#8 data) s =
      .next { s with key := data.extractLsb' 0 48, status := s.status ||| 0x01#8,
                     responses := s.responses ++ [0x0000000000000000000#76] } ∧
    statusKV (s.status ||| 0x01#8) = true ∧ statusBV (s.status ||| 0x01#8) = s.bv ∧
    statusOV (s.status ||| 0x01#8) = s.ov ∧ statusERR (s.status ||| 0x01#8) = s.err ∧
    statusCAUSE (s.status ||| 0x01#8) = s.cause) ∧
  (∀ (len : BitVec 8) (data : BitVec 64) (s : State), len ≠ 48#8 →
    ∃ t, exec (.ldkey len data) s = .next t ∧ t = s.raiseFault .lenXor ∧ t.key = s.key ∧ t.kv = s.kv) ∧
  (∀ (data : BitVec 64) (s : State), ∃ t u, exec (.ldkey 48#8 data) s = .next t ∧
    exec (.ldkey 48#8 data) t = .next u ∧ u = { t with responses := u.responses }) ∧
  (∀ (data : BitVec 64) (s : State), s.key = 0#48 → s.kv = true →
    exec (.mix 48#8 data) s =
      .next { s with responses := s.responses ++ [okWord 48#8 ((data.extractLsb' 0 48).setWidth 64)] }) ∧
  (∀ s : State, ∃ t, exec (decode 0x13000001B02EFFC7072#76) s = .next t ∧ t.key = 0x1B02EFFC7072#48 ∧ t.kv = true ∧
    t.responses = s.responses ++ [0x0000000000000000000#76])

/-- R155. -/
def Obligations.LdblkReplacesTheBlock : Prop :=
  (∀ (data : BitVec 64) (s : State),
    exec (.ldblk 64#8 data) s =
      .next { s with block := data, status := s.status ||| 0x02#8,
                     responses := s.responses ++ [0x0000000000000000000#76] } ∧
    statusBV (s.status ||| 0x02#8) = true ∧ statusKV (s.status ||| 0x02#8) = s.kv ∧
    statusOV (s.status ||| 0x02#8) = s.ov ∧ statusERR (s.status ||| 0x02#8) = s.err ∧
    statusCAUSE (s.status ||| 0x02#8) = s.cause) ∧
  (∀ (len : BitVec 8) (data : BitVec 64) (s : State), len ≠ 64#8 →
    ∃ t, exec (.ldblk len data) s = .next t ∧ t = s.raiseFault .lenBlock ∧ t.block = s.block ∧ t.bv = s.bv) ∧
  (∀ s : State, ∃ t, exec (decode 0x240CC00CCFFF0AAF0AA#76) s = .next t ∧ t.block = 0xCC00CCFFF0AAF0AA#64 ∧
    t.bv = true ∧ t.responses = s.responses ++ [0x0000000000000000000#76] ∧
    LayerF.split (LayerF.ofReg t.block) =
      .ok (LayerF.ofReg 0xCC00CCFF#32, LayerF.ofReg 0xF0AAF0AA#32)) ∧
  (∀ s : State, ∃ t, exec (decode 0x23F0000000000000000#76) s = .next t ∧
    t.responses = s.responses ++ [0xB000000000000000000#76])

/-- R156; the example uses the default tables (log 6). -/
def Obligations.EncPerformsOneRound : Prop :=
  (∀ (len : BitVec 8) (data : BitVec 64) (s : State), s.bv = true → s.kv = true →
    ∃ y : BitVec 64,
      LayerF.encryptOneRound Config.tables.val (LayerF.ofReg s.block) (LayerF.ofReg s.key) =
        .ok (LayerF.ofReg y) ∧
      exec (.enc len data) s =
        .next { s with out := y, status := s.status ||| 0x04#8, responses := s.responses ++ [okWord 64#8 y] } ∧
      y.extractLsb' 32 32 = s.block.extractLsb' 0 32 ∧
      (∀ (len' : BitVec 8) (data' : BitVec 64), ∃ t,
        exec (.enc len' data') { s with out := y, status := s.status ||| 0x04#8,
                                        responses := s.responses ++ [okWord 64#8 y] } = .next t ∧ t.out = y) ∧
      (∀ c : Cause, ∃ t, exec (.enc len data) (s.raiseFault c) = .next t ∧ t.out = y)) ∧
  (∀ st : BitVec 8, statusOV (st ||| 0x04#8) = true ∧ statusKV (st ||| 0x04#8) = statusKV st ∧
    statusBV (st ||| 0x04#8) = statusBV st ∧ statusERR (st ||| 0x04#8) = statusERR st ∧
    statusCAUSE (st ||| 0x04#8) = statusCAUSE st) ∧
  (∀ (len : BitVec 8) (data : BitVec 64) (s : State), s.bv = false ∨ s.kv = false →
    ∃ t, exec (.enc len data) s = .next t ∧ t = s.raiseFault .notLoaded ∧ t.out = s.out ∧ t.ov = s.ov) ∧
  (∀ s : State, s.bv = true → s.kv = true → s.block = 0xCC00CCFFF0AAF0AA#64 → s.key = 0x1B02EFFC7072#48 →
    ∃ t, exec (decode 0x3000000000000000000#76) s = .next t ∧ t.out = 0xF0AAF0AAEF4A6544#64 ∧ t.ov = true ∧
      t.responses = s.responses ++ [0x040F0AAF0AAEF4A6544#76]) ∧
  LayerF.roundFunction Config.tables.val (LayerF.ofReg 0xF0AAF0AA#32) (LayerF.ofReg 0x1B02EFFC7072#48) =
    .ok (LayerF.ofReg 0x234AA9BB#32) ∧
  LayerF.xor (LayerF.ofReg 0x234AA9BB#32) (LayerF.ofReg 0xCC00CCFF#32) = .ok (LayerF.ofReg 0xEF4A6544#32)

/-- R157. -/
def Obligations.RdoutAnswersOut : Prop :=
  (∀ (len : BitVec 8) (data : BitVec 64) (s : State), s.ov = true →
    exec (.rdout len data) s = .next { s with responses := s.responses ++ [okWord 64#8 s.out] }) ∧
  (∀ (len : BitVec 8) (data : BitVec 64) (s : State), s.ov = false →
    exec (.rdout len data) s = .next (s.raiseFault .notLoaded)) ∧
  (∀ (len len' : BitVec 8) (data data' : BitVec 64) (s : State), s.ov = true →
    (∃ t, exec (.ldkey len' data') s = .next t ∧
      exec (.rdout len data) t = .next { t with responses := t.responses ++ [okWord 64#8 s.out] }) ∧
    (∃ t, exec (.ldblk len' data') s = .next t ∧
      exec (.rdout len data) t = .next { t with responses := t.responses ++ [okWord 64#8 s.out] })) ∧
  (∀ s : State, s.ov = true → s.out = 0xF0AAF0AAEF4A6544#64 →
    ∃ t, exec (decode 0x4000000000000000000#76) s = .next t ∧
      t.responses = s.responses ++ [0x040F0AAF0AAEF4A6544#76]) ∧
  (∃ t, exec (decode 0x4000000000000000000#76) State.reset = .next t ∧ t.responses = [0xE000000000000000000#76])

/-- R85. -/
def Obligations.MixXorsTheKey : Prop :=
  (∀ (data : BitVec 64) (s : State), s.kv = true →
    exec (.mix 48#8 data) s =
      .next { s with responses :=
        s.responses ++ [okWord 48#8 ((data.extractLsb' 0 48 ^^^ s.key).setWidth 64)] }) ∧
  (∀ (data : BitVec 64) (s : State), s.kv = false →
    exec (.mix 48#8 data) s = .next (s.raiseFault .notLoaded)) ∧
  (∀ (len : BitVec 8) (data : BitVec 64) (s : State), len ≠ 48#8 →
    exec (.mix len data) s = .next (s.raiseFault .lenXor)) ∧
  (rspErr (faultWord .lenXor) = true ∧ rspLen (faultWord .lenXor) = 0#8 ∧ rspData (faultWord .lenXor) = 0#64) ∧
  (∀ (data : BitVec 64) (s : State), s.kv = true →
    (data.extractLsb' 0 48 = 0#48 → exec (.mix 48#8 data) s =
      .next { s with responses := s.responses ++ [okWord 48#8 (s.key.setWidth 64)] }) ∧
    (data.extractLsb' 0 48 = s.key → exec (.mix 48#8 data) s =
      .next { s with responses := s.responses ++ [okWord 48#8 0#64] })) ∧
  (∀ s : State, s.kv = true → s.key = 0x1B02EFFC7072#48 →
    exec (decode 0x63000007A15557A1555#76) s =
      .next { s with responses := s.responses ++ [0x03000006117BA866527#76] })

/-- R107; the examples use the default tables (log 6). -/
def Obligations.ExpAnswersTheExpansion : Prop :=
  (∀ (data : BitVec 64) (s : State), ∃ v : BitVec 48,
    exec (.exp 32#8 data) s =
      .next { s with responses := s.responses ++ [okWord 48#8 (v.setWidth 64)] } ∧
    LayerF.expand Config.tables.val (LayerF.ofReg (data.extractLsb' 0 32)) = .ok (LayerF.ofReg v) ∧
    (∀ i, 1 ≤ i → i ≤ 48 → ∃ j, LayerF.romE Config.tables.val i = some j ∧ 1 ≤ j ∧ j ≤ 32 ∧
      v.getLsbD (48 - i) = data.getLsbD (32 - j)) ∧
    (data.extractLsb' 0 32 = 0#32 → v = 0#48) ∧
    (data.extractLsb' 0 32 = BitVec.allOnes 32 → v = BitVec.allOnes 48)) ∧
  (∀ (len : BitVec 8) (data : BitVec 64) (s : State), len ≠ 32#8 →
    exec (.exp len data) s = .next (s.raiseFault .lenStage)) ∧
  (∀ s : State,
    exec (decode 0x52000000000F0AAF0AA#76) s =
      .next { s with responses := s.responses ++ [0x03000007A15557A1555#76] } ∧
    exec (.exp 32#8 0x80000000#64) s =
      .next { s with responses := s.responses ++ [okWord 48#8 0x400000000001#64] })

/-- R108; the examples use the default tables (log 6). -/
def Obligations.PrmAnswersThePermutation : Prop :=
  (∀ (data : BitVec 64) (s : State), ∃ v : BitVec 32,
    exec (.prm 32#8 data) s =
      .next { s with responses := s.responses ++ [okWord 32#8 (v.setWidth 64)] } ∧
    LayerF.finalPermute Config.tables.val (LayerF.ofReg (data.extractLsb' 0 32)) = .ok (LayerF.ofReg v) ∧
    (∀ i, 1 ≤ i → i ≤ 32 → ∃ j, LayerF.romP Config.tables.val i = some j ∧ 1 ≤ j ∧ j ≤ 32 ∧
      v.getLsbD (32 - i) = data.getLsbD (32 - j)) ∧
    (data.extractLsb' 0 32 = 0#32 → v = 0#32) ∧
    (data.extractLsb' 0 32 = BitVec.allOnes 32 → v = BitVec.allOnes 32) ∧
    (LayerF.ofReg v).count true = (LayerF.ofReg (data.extractLsb' 0 32)).count true) ∧
  (∀ (len : BitVec 8) (data : BitVec 64) (s : State), len ≠ 32#8 →
    exec (.prm len data) s = .next (s.raiseFault .lenStage)) ∧
  (∀ s : State,
    exec (decode 0x820000000005C82B597#76) s =
      .next { s with responses := s.responses ++ [0x02000000000234AA9BB#76] } ∧
    exec (.prm 32#8 0x80000000#64) s =
      .next { s with responses := s.responses ++ [okWord 32#8 0x00800000#64] })

/-- R129; the corner cases and the example use the default tables (log 6). -/
def Obligations.SubAnswersTheSubstitution : Prop :=
  (∀ (data : BitVec 64) (s : State), ∃ v : BitVec 32,
    exec (.sub 48#8 data) s =
      .next { s with responses := s.responses ++ [okWord 32#8 (v.setWidth 64)] } ∧
    LayerF.substitute Config.tables.val (LayerF.ofReg (data.extractLsb' 0 48)) = .ok (LayerF.ofReg v) ∧
    (∀ g < 8, ∃ e,
      LayerF.romS Config.tables.val g
        (2 * (data.getLsbD (47 - 6 * g)).toNat + (data.getLsbD (42 - 6 * g)).toNat)
        (8 * (data.getLsbD (46 - 6 * g)).toNat + 4 * (data.getLsbD (45 - 6 * g)).toNat +
          2 * (data.getLsbD (44 - 6 * g)).toNat + (data.getLsbD (43 - 6 * g)).toNat) = some e ∧
      (v.extractLsb' (28 - 4 * g) 4).toNat = e) ∧
    (data.extractLsb' 0 48 = 0#48 → v = 0xEFA72C4D#32) ∧
    (data.extractLsb' 0 48 = BitVec.allOnes 48 → v = 0xD9CE3DCB#32)) ∧
  (∀ (len : BitVec 8) (data : BitVec 64) (s : State), len ≠ 48#8 →
    exec (.sub len data) s = .next (s.raiseFault .lenStage)) ∧
  (∀ s : State,
    exec (decode 0x73000006117BA866527#76) s =
      .next { s with responses := s.responses ++ [0x020000000005C82B597#76] }) ∧
  ((List.range 8).map fun g =>
      (LayerF.row (LayerF.group (LayerF.ofReg 0x6117BA866527#48) g),
        LayerF.col (LayerF.group (LayerF.ofReg 0x6117BA866527#48) g))) =
    [(0, 12), (1, 8), (0, 15), (2, 13), (3, 0), (2, 3), (0, 10), (3, 3)]

/-- 43_round_function.md section 2; the corner cases and the example use the default tables (log 6). -/
def Obligations.RfAnswersTheRoundFunction : Prop :=
  (∀ (data : BitVec 64) (s : State), s.kv = true → ∃ v : BitVec 32,
    exec (.rf 32#8 data) s =
      .next { s with responses := s.responses ++ [okWord 32#8 (v.setWidth 64)] } ∧
    LayerF.roundFunction Config.tables.val (LayerF.ofReg (data.extractLsb' 0 32)) (LayerF.ofReg s.key) =
      .ok (LayerF.ofReg v) ∧
    (data.extractLsb' 0 32 = 0#32 → s.key = 0#48 → v = 0xD8D8DBBC#32) ∧
    (data.extractLsb' 0 32 = BitVec.allOnes 32 → s.key = BitVec.allOnes 48 → v = 0xD8D8DBBC#32) ∧
    (data.extractLsb' 0 32 = BitVec.allOnes 32 → s.key = 0#48 → v = 0x38DBF9CB#32)) ∧
  (∀ (data : BitVec 64) (s : State), s.kv = false →
    exec (.rf 32#8 data) s = .next (s.raiseFault .notLoaded)) ∧
  (∀ (len : BitVec 8) (data : BitVec 64) (s : State), len ≠ 32#8 →
    exec (.rf len data) s = .next (s.raiseFault .lenHalf)) ∧
  (∀ s : State, s.kv = true → s.key = 0x1B02EFFC7072#48 →
    exec (decode 0x92000000000F0AAF0AA#76) s =
      .next { s with responses := s.responses ++ [0x02000000000234AA9BB#76] })

/-- 43_round_function.md section 2 (the spec's own inference): EXP, MIX, SUB and PRM in sequence, each given the
previous response's data, end with the answer RF gives at once. -/
def Obligations.StageCommandsComposeToRf : Prop :=
  ∀ (data : BitVec 64) (s : State), s.kv = true →
    ∃ (x m y f : BitVec 64) (s1 s2 s3 s4 s5 : State),
      exec (.exp 32#8 data) s = .next s1 ∧ exec (.mix 48#8 x) s1 = .next s2 ∧ exec (.sub 48#8 m) s2 = .next s3 ∧
      exec (.prm 32#8 y) s3 = .next s4 ∧ exec (.rf 32#8 data) s4 = .next s5 ∧
      s5 = { s with responses := s.responses ++
        [okWord 48#8 x, okWord 48#8 m, okWord 32#8 y, okWord 32#8 f, okWord 32#8 f] }

/-- 44_feistel_driver.md section 1 (involution, the spec's own inference) on the machine: load a key and a block, ENC,
load the result with its halves exchanged, ENC: OUT is the first block with its halves exchanged. From any state. -/
def Obligations.TwoEncsUndoABlockUpToSwap : Prop :=
  ∀ (s : State) (k b : BitVec 64), ∃ t u : State,
    Host.Core.run Sys2Proof.core 3 (s.sending
      [encode (.ldkey 48#8 k), encode (.ldblk 64#8 b), encode (.enc 0#8 0#64)]) = .next t ∧
    Host.Core.run Sys2Proof.core 2 (t.sending
      [encode (.ldblk 64#8 (swapHalves t.out)), encode (.enc 0#8 0#64)]) = .next u ∧
    u.out = swapHalves b ∧ t.err = s.err ∧ u.err = s.err

/- ---- Faults and hazards ---- -/

/-- R186: a command that reads a register not loaded since reset raises NOT_LOADED, code 6. -/
def Obligations.UnloadedRegisterIsAFault : Prop :=
  (∀ (len : BitVec 8) (data : BitVec 64) (s : State),
    (s.kv = false ∨ s.bv = false → exec (.enc len data) s = .next (s.raiseFault .notLoaded)) ∧
    (s.kv = false → exec (.mix 48#8 data) s = .next (s.raiseFault .notLoaded)) ∧
    (s.kv = false → exec (.rf 32#8 data) s = .next (s.raiseFault .notLoaded)) ∧
    (s.ov = false → exec (.rdout len data) s = .next (s.raiseFault .notLoaded))) ∧
  Cause.notLoaded.code = 6#3

/-- R188: what a fault does, all of it; that every faulting response comes from exactly this; and that the block then
executes the next command as it would have without the fault: the same registers, the same valid flags and the same
response (but for RDST, which answers STATUS, where the fault stands), CAUSE being the earlier fault's unless the
command faults itself. -/
def Obligations.FaultEntryRecordsAndAnswers : Prop :=
  (∀ (s : State) (c : Cause),
    (s.raiseFault c).key = s.key ∧ (s.raiseFault c).block = s.block ∧ (s.raiseFault c).out = s.out ∧
    (s.raiseFault c).kv = s.kv ∧ (s.raiseFault c).bv = s.bv ∧ (s.raiseFault c).ov = s.ov ∧
    (s.raiseFault c).err = true ∧ (s.raiseFault c).cause = c.code ∧
    statusBit7 (s.raiseFault c).status = statusBit7 s.status ∧
    (s.raiseFault c).host = s.host ∧ (s.raiseFault c).resets = s.resets ∧
    ∃ w : ResponseWord, (s.raiseFault c).responses = s.responses ++ [w] ∧ w.getLsbD 75 = true ∧
      w.extractLsb' 72 3 = c.code ∧ w.extractLsb' 64 8 = 0#8 ∧ w.extractLsb' 0 64 = 0#64) ∧
  (∀ (i : Instr) (s t : State) (w : ResponseWord), exec i s = .next t → t.responses = s.responses ++ [w] →
    w.getLsbD 75 = true → ∃ c, c ≠ .none ∧ t = s.raiseFault c) ∧
  (∀ (i : Instr) (s : State) (c : Cause),
    firstFault i (s.raiseFault c) = firstFault i s ∧ ∃ t, exec i (s.raiseFault c) = .next t) ∧
  (∀ (i : Instr) (s t : State) (c : Cause), exec i s = .next t →
    ∃ (u : State) (w w' : ResponseWord), exec i (s.raiseFault c) = .next u ∧
      u.key = t.key ∧ u.block = t.block ∧ u.out = t.out ∧ u.kv = t.kv ∧ u.bv = t.bv ∧ u.ov = t.ov ∧
      t.responses = s.responses ++ [w] ∧ u.responses = (s.raiseFault c).responses ++ [w'] ∧
      rspErr w' = rspErr w ∧ rspCause w' = rspCause w ∧ rspLen w' = rspLen w ∧
      ((∀ (len : BitVec 8) (data : BitVec 64), i ≠ .rdst len data) → w' = w) ∧
      u.err = true ∧ (rspErr w = true → u.cause = t.cause) ∧ (rspErr w = false → u.cause = c.code))

/-- 70_reset_and_hazards.md section 3 (stale register, the spec's own inference): after a load that faults, ENC, MIX
and RF succeed with the old contents, exactly as if the load had not been sent, and only ERR and CAUSE tell. -/
def Obligations.FailedLoadLeavesStaleRegisters : Prop :=
  ∀ (len len' : BitVec 8) (data d : BitVec 64) (s : State), s.kv = true → s.bv = true →
    (len ≠ 48#8 → ∃ u t v, exec (.ldkey len data) s = .next u ∧ exec (.enc len' d) u = .next t ∧
      exec (.enc len' d) s = .next v ∧ t.out = v.out ∧ t.err = true ∧ t.cause = 2#3 ∧
      ∃ w, t.responses = u.responses ++ [w] ∧ v.responses = s.responses ++ [w] ∧ rspErr w = false) ∧
    (len ≠ 64#8 → ∃ u t v, exec (.ldblk len data) s = .next u ∧ exec (.enc len' d) u = .next t ∧
      exec (.enc len' d) s = .next v ∧ t.out = v.out ∧ t.err = true ∧ t.cause = 3#3 ∧
      ∃ w, t.responses = u.responses ++ [w] ∧ v.responses = s.responses ++ [w] ∧ rspErr w = false) ∧
    (len ≠ 48#8 → ∃ u t1 t2 w1 w2, exec (.ldkey len data) s = .next u ∧
      exec (.mix 48#8 d) u = .next t1 ∧ t1.responses = u.responses ++ [w1] ∧ rspErr w1 = false ∧
      exec (.mix 48#8 d) s = .next { s with responses := s.responses ++ [w1] } ∧
      exec (.rf 32#8 d) u = .next t2 ∧ t2.responses = u.responses ++ [w2] ∧ rspErr w2 = false ∧
      exec (.rf 32#8 d) s = .next { s with responses := s.responses ++ [w2] })

/-- 70_reset_and_hazards.md section 3 (interleaving): user A loads a key and a block, user B loads a key, A encrypts:
the round runs with B's key and no fault is raised. From any state. -/
def Obligations.InterleavedKeyIsUsed : Prop :=
  ∀ (s : State) (ka ba kb : BitVec 64), ∃ (t : State) (y : BitVec 64),
    Host.Core.run Sys2Proof.core 4 (s.sending [encode (.ldkey 48#8 ka), encode (.ldblk 64#8 ba),
      encode (.ldkey 48#8 kb), encode (.enc 0#8 0#64)]) = .next t ∧
    LayerF.encryptOneRound Config.tables.val (LayerF.ofReg ba) (LayerF.ofReg (kb.extractLsb' 0 48)) =
      .ok (LayerF.ofReg y) ∧
    t.out = y ∧ t.key = kb.extractLsb' 0 48 ∧ t.err = s.err ∧ t.cause = s.cause ∧
    t.responses = s.responses ++ [0#76, 0#76, 0#76, okWord 64#8 y]

/-- R215: what suffices after a reset: nothing for EXP, SUB, PRM, NOP and RDST; a successful LDKEY for MIX and RF; LDKEY
and LDBLK, in either order, for ENC; an ENC for RDOUT. -/
def Obligations.BootSequenceSuffices : Prop :=
  ∀ s : State, s.status = 0#8 → ∀ (k b d : BitVec 64),
    (∃ w1 w2 w3 w4 w5,
      exec (.exp 32#8 d) s = .next { s with responses := s.responses ++ [w1] } ∧ rspErr w1 = false ∧
      exec (.sub 48#8 d) s = .next { s with responses := s.responses ++ [w2] } ∧ rspErr w2 = false ∧
      exec (.prm 32#8 d) s = .next { s with responses := s.responses ++ [w3] } ∧ rspErr w3 = false ∧
      exec (.nop 0#8 0#64) s = .next { s with responses := s.responses ++ [w4] } ∧ rspErr w4 = false ∧
      exec (.rdst 0#8 0#64) s = .next { s with responses := s.responses ++ [w5] } ∧ rspErr w5 = false) ∧
    (∃ t w1 w2, exec (.ldkey 48#8 k) s = .next t ∧
      exec (.mix 48#8 d) t = .next { t with responses := t.responses ++ [w1] } ∧ rspErr w1 = false ∧
      exec (.rf 32#8 d) t = .next { t with responses := t.responses ++ [w2] } ∧ rspErr w2 = false) ∧
    (∃ t1 t2 t3 t4 w, exec (.ldkey 48#8 k) s = .next t1 ∧ exec (.ldblk 64#8 b) t1 = .next t2 ∧
      exec (.enc 0#8 0#64) t2 = .next t3 ∧ exec (.rdout 0#8 0#64) t3 = .next t4 ∧
      t3.responses = t2.responses ++ [w] ∧ rspErr w = false ∧ t4.responses = t3.responses ++ [w]) ∧
    (∃ t1 t2 t3 t4 w, exec (.ldblk 64#8 b) s = .next t1 ∧ exec (.ldkey 48#8 k) t1 = .next t2 ∧
      exec (.enc 0#8 0#64) t2 = .next t3 ∧ exec (.rdout 0#8 0#64) t3 = .next t4 ∧
      t3.responses = t2.responses ++ [w] ∧ rspErr w = false ∧ t4.responses = t3.responses ++ [w])
end

