-- ==== Sys2Proof/Laws/Bits.lean ====
section
/-! SUPPORT. What the notation of Machine/Bits.lean does: lengths, elements, and the passage between vectors, numbers,
registers and the data bus. -/

namespace Sys2Proof.LayerF

@[simp] theorem val_nil : val [] = 0 := rfl

@[simp] theorem val_cons (b : Bool) (v : Bits) : val (b :: v) = b.toNat * 2 ^ v.length + val v := rfl

theorem val_lt (v : Bits) : val v < 2 ^ v.length := by
  induction v with
  | nil => simp
  | cons b v ih => cases b <;> simp [pow_succ] <;> omega

@[simp] theorem vec_length (n x : Nat) : (vec n x).length = n := by simp [vec]

theorem vec_get (n x p : Nat) (h : p < n) : (vec n x)[p]? = some (x.testBit (n - 1 - p)) := by
  simp [vec, h]

/-- Two vectors of one length with the same elements are the same vector. -/
theorem bits_ext {v w : Bits} (hl : v.length = w.length) (h : ∀ p, p < v.length → v[p]? = w[p]?) : v = w := by
  apply List.ext_getElem?
  intro p
  rcases Nat.lt_or_ge p v.length with hp | hp
  · exact h p hp
  · rw [List.getElem?_eq_none hp, List.getElem?_eq_none (hl ▸ hp)]

/-- The number a vector spells has the vector's elements as its binary digits. -/
theorem testBit_val (v : Bits) (p : Nat) (h : p < v.length) :
    v[p]? = some ((val v).testBit (v.length - 1 - p)) := by
  induction v generalizing p with
  | nil => simp at h
  | cons b v ih =>
    have hv := val_lt v
    cases p with
    | zero =>
      cases b
      · simp [Nat.testBit_lt_two_pow hv]
      · simp [Nat.testBit_two_pow_add_eq, Nat.testBit_lt_two_pow hv]
    | succ p =>
      have hp : p < v.length := by simpa using h
      have hlt : v.length - 1 - p < v.length := by omega
      have e : v.length + 1 - 1 - (p + 1) = v.length - 1 - p := by omega
      cases b
      · have h1 := ih p hp
        rw [show v.length - 1 - p = v.length - (p + 1) by omega] at h1
        simpa using h1
      · simp only [List.getElem?_cons_succ, List.length_cons, val_cons, Bool.toNat_true, one_mul, e]
        rw [Nat.testBit_two_pow_add_gt hlt]
        exact ih p hp

theorem val_inj {v w : Bits} (hl : v.length = w.length) (h : val v = val w) : v = w :=
  bits_ext hl fun p hp => by rw [testBit_val v p hp, testBit_val w p (hl ▸ hp), h, hl]

/-- The vector spelled by the number a vector spells is that vector. -/
@[simp] theorem vec_val (v : Bits) : vec v.length (val v) = v :=
  bits_ext (by simp) fun p hp => by
    have hp' : p < v.length := by simpa using hp
    rw [vec_get _ _ _ hp', testBit_val v p hp']

/-- `vec` keeps the low `n` binary digits. -/
theorem val_vec_mod (n x : Nat) : val (vec n x) = x % 2 ^ n := by
  apply Nat.eq_of_testBit_eq
  intro j
  rw [Nat.testBit_mod_two_pow]
  rcases Nat.lt_or_ge j n with hj | hj
  · have h1 := testBit_val (vec n x) (n - 1 - j) (by simp; omega)
    rw [vec_get _ _ _ (by omega)] at h1
    have e : n - 1 - (n - 1 - j) = j := by omega
    simp [e] at h1
    simp [hj, h1]
  · have : val (vec n x) < 2 ^ j :=
      lt_of_lt_of_le (by simpa using val_lt (vec n x)) (Nat.pow_le_pow_right (by norm_num) hj)
    simp [Nat.testBit_lt_two_pow this, Nat.not_lt.mpr hj]

theorem val_vec (n x : Nat) (h : x < 2 ^ n) : val (vec n x) = x := by
  rw [val_vec_mod, Nat.mod_eq_of_lt h]

theorem val_append (v w : Bits) : val (v ++ w) = val v * 2 ^ w.length + val w := by
  induction v with
  | nil => simp
  | cons b v ih => simp [ih, pow_add]; ring

@[simp] theorem ofReg_length {w : Nat} (x : BitVec w) : (ofReg x).length = w := by simp [ofReg]

theorem ofReg_get {w : Nat} (x : BitVec w) (p : Nat) (h : p < w) :
    (ofReg x)[p]? = some (x.getLsbD (w - 1 - p)) := by
  rw [ofReg, vec_get _ _ _ h, BitVec.testBit_toNat]

@[simp] theorem val_ofReg {w : Nat} (x : BitVec w) : val (ofReg x) = x.toNat := val_vec _ _ x.isLt

@[simp] theorem toReg_ofReg {w : Nat} (x : BitVec w) : toReg w (ofReg x) = x := by simp [toReg]

theorem ofReg_toReg {w : Nat} (v : Bits) (h : v.length = w) : ofReg (toReg w v) = v := by
  subst h
  apply val_inj (by simp)
  simp [toReg, Nat.mod_eq_of_lt (val_lt v)]

theorem ofReg_inj {w : Nat} {x y : BitVec w} (h : ofReg x = ofReg y) : x = y := by
  rw [← toReg_ofReg x, h, toReg_ofReg]

@[simp] theorem take_length (n : Nat) (data : BitVec 64) : (take n data).length = n := by simp [take]

/-- R65: the operand of length `n` is the content of the low `n` bits of the data field. -/
theorem take_eq_ofReg (n : Nat) (data : BitVec 64) : take n data = ofReg (data.extractLsb' 0 n) := rfl

/-- A vector of length at most 64 on the bus. -/
theorem carry_eq (v : Bits) : carry v = BitVec.ofNat 64 (val v) := rfl

/-- A register of at most 64 bits on the bus: its number, high bits zero. -/
theorem carry_ofReg {w : Nat} (x : BitVec w) : carry (ofReg x) = x.setWidth 64 := by
  apply BitVec.eq_of_toNat_eq
  simp [carry]

theorem carry_eq_toReg {w : Nat} (v : Bits) (h : v.length = w) : carry v = (toReg w v).setWidth 64 := by
  rw [← carry_ofReg, ofReg_toReg v h]

theorem slice_length (v : Bits) (p q : Nat) (h : q < v.length) : (slice v p q).length = q - p + 1 ∨ q < p := by
  rcases Nat.lt_or_ge q p with h' | h'
  · exact .inr h'
  · left; simp [slice]; omega

theorem slice_get (v : Bits) (p q k : Nat) (h : k < q - p + 1) : (slice v p q)[k]? = v[p + k]? := by
  simp [slice, h]

/-- A vector of length `n` is a register's content. -/
theorem as_reg {n : Nat} {v : Bits} (h : v.length = n) :
    ∃ x : BitVec n, v = ofReg x := ⟨toReg n v, (ofReg_toReg v h).symm⟩

theorem zeros_reg (n : Nat) : List.replicate n false = ofReg (0#n) := by
  refine bits_ext (by simp) fun p hp => ?_
  have hp : p < n := by simpa using hp
  rw [ofReg_get _ _ hp]; simp [hp]

theorem ones_reg (n : Nat) : List.replicate n true = ofReg (BitVec.allOnes n) := by
  refine bits_ext (by simp) fun p hp => ?_
  have hp : p < n := by simpa using hp
  rw [ofReg_get _ _ hp]; simp [hp]; omega

theorem append_reg {m n : Nat} (x : BitVec m) (y : BitVec n) : ofReg x ++ ofReg y = ofReg (x ++ y) := by
  refine bits_ext (by simp) fun p hp => ?_
  have hp : p < m + n := by simpa using hp
  rw [ofReg_get _ _ hp, BitVec.getLsbD_append]
  rcases Nat.lt_or_ge p m with h | h
  · rw [List.getElem?_append_left (by simpa using h), ofReg_get _ _ h, if_neg (by omega)]
    congr 2; omega
  · rw [List.getElem?_append_right (by simpa using h), ofReg_get _ _ (by simp; omega), if_pos (by omega)]
    simp; congr 1; omega

/-- Two registers answered by one call are one. -/
theorem ofReg_ok_inj {w : Nat} {x y : BitVec w} {r : Except LayerFError Bits} (h : r = .ok (ofReg x))
    (h' : r = .ok (ofReg y)) : x = y := by
  rw [h] at h'; exact ofReg_inj (Except.ok.inj h')

end Sys2Proof.LayerF
end

