-- ==== Sys2Proof/Laws/Decode.lean ====
section
/-! SUPPORT. What the encoder's layout and the decoder do to the fields of a command word (30_encoding.md R60, R62). -/

namespace Sys2Proof

/-- R60: the fields of a word are the fields it was made of. -/
theorem makeWord_fields (o : BitVec 4) (l : BitVec 8) (d : BitVec 64) :
    wordOp (makeWord o l d) = o ∧ wordLen (makeWord o l d) = l ∧ wordData (makeWord o l d) = d := by
  refine ⟨?_, ?_, ?_⟩
  · refine BitVec.eq_of_getLsbD_eq fun i hi => ?_
    simp only [wordOp, makeWord, BitVec.getLsbD_extractLsb', BitVec.getLsbD_append, hi,
      show ¬ 72 + i < 64 by omega, show ¬ 72 + i - 64 < 8 by omega, show 72 + i - 64 - 8 = i by omega]
    simp
  · refine BitVec.eq_of_getLsbD_eq fun i hi => ?_
    simp only [wordLen, makeWord, BitVec.getLsbD_extractLsb', BitVec.getLsbD_append, hi,
      show ¬ 64 + i < 64 by omega, show 64 + i - 64 = i by omega]
    simp
  · refine BitVec.eq_of_getLsbD_eq fun i hi => ?_
    simp only [wordData, makeWord, BitVec.getLsbD_extractLsb', BitVec.getLsbD_append, hi, Nat.zero_add]
    simp

/-- R60, R62: a decoded command has the word's fields. -/
theorem decode_fields (w : CommandWord) :
    (decode w).op = wordOp w ∧ (decode w).len = wordLen w ∧ (decode w).data = wordData w := by
  have h : (wordOp w).toNat < 16 := (wordOp w).isLt
  refine ⟨?_, ?_, ?_⟩
  · apply BitVec.eq_of_toNat_eq
    unfold decode
    generalize hn : (wordOp w).toNat = n at *
    interval_cases n <;> rfl
  all_goals
    unfold decode
    split <;> rfl

/-- Data fields that agree on the low `n` bits carry the same operand of length `n` (R65). -/
theorem operand_congr {n : Nat} {d d' : BitVec 64} (h : ∀ j < n, d.getLsbD j = d'.getLsbD j) :
    d.extractLsb' 0 n = d'.extractLsb' 0 n := by
  refine BitVec.eq_of_getLsbD_eq fun i hi => ?_
  simp [hi, h i hi]

theorem operand_full (d : BitVec 64) : d.extractLsb' 0 64 = d := by
  refine BitVec.eq_of_getLsbD_eq fun i hi => ?_
  simp [hi]

/-- A length field other than `n` is not the number `n`. -/
theorem len_ne {len : BitVec 8} {n : Nat} (h : len ≠ BitVec.ofNat 8 n) (hn : n < 256) :
    len.toNat ≠ n := fun e => h (by subst e; simp)

end Sys2Proof
end

