-- ==== Sys2Proof/Laws/Functions.lean ====
section
/-! SUPPORT. One spec lemma per layer-F function: on arguments of the lengths its contract names, over any well-formed
tables, it answers a vector of the length it states. -/

namespace Sys2Proof.LayerF

theorem xor_ok {a b : Bits} (h : a.length = b.length) :
    xor a b = .ok (List.zipWith (fun x y => x ^^ y) a b) := if_pos h

theorem xor_length {a b v : Bits} (h : xor a b = .ok v) : a.length = b.length ∧ v.length = a.length := by
  unfold xor at h
  split at h
  · rename_i hl; cases h; simp [hl]
  · cases h

/-- On registers of one width the mixer is the bitwise exclusive-or. -/
theorem xor_ofReg {w : Nat} (x y : BitVec w) : xor (ofReg x) (ofReg y) = .ok (ofReg (x ^^^ y)) := by
  rw [xor_ok (by simp)]
  congr 1
  refine bits_ext (by simp) fun p hp => ?_
  have hp : p < w := by simpa using hp
  rw [List.getElem?_zipWith, ofReg_get _ _ hp, ofReg_get _ _ hp, ofReg_get _ _ hp]
  simp

theorem toBinary_ok {value width : Nat} (h : value < 2 ^ width) : toBinary value width = .ok (vec width value) :=
  if_pos h

/-- An entry that names an element selects it. -/
theorem element_some {v : Bits} {i : Nat} (h1 : 1 ≤ i) (h2 : i ≤ v.length) :
    ∃ b, element v i = some b ∧ v[i - 1]? = some b := by
  obtain ⟨p, rfl⟩ : ∃ p, i = p + 1 := ⟨i - 1, by omega⟩
  exact ⟨v[p], by simp [element, List.getElem?_eq_getElem (show p < v.length by omega)],
    by simp [List.getElem?_eq_getElem (show p < v.length by omega)]⟩

/-- A selection takes, for each entry in order, the element it names. -/
theorem select_spec {v : Bits} {table : List Nat} (h : ∀ i ∈ table, 1 ≤ i ∧ i ≤ v.length) :
    ∃ out, select v table = some out ∧ out.length = table.length ∧
      ∀ (p i : Nat), table[p]? = some i → out[p]? = v[i - 1]? := by
  induction table with
  | nil => exact ⟨[], rfl, rfl, by simp⟩
  | cons i table ih =>
    obtain ⟨out, ho, hl, hs⟩ := ih fun j hj => h j (by simp [hj])
    obtain ⟨b, hb, hv⟩ := element_some (h i (by simp)).1 (h i (by simp)).2
    refine ⟨b :: out, by simp [select, hb, ho], by simp [hl], ?_⟩
    intro p j hp
    cases p with
    | zero => obtain rfl : i = j := by simpa using hp
              simpa using hv.symm
    | succ p => simpa using hs p j (by simpa using hp)

theorem maxEntry_le {table : List Nat} {n : Nat} (h : ∀ i ∈ table, i ≤ n) : maxEntry table ≤ n := by
  induction table with
  | nil => simp [maxEntry]
  | cons i table ih =>
    have := ih fun j hj => h j (by simp [hj])
    have hi := h i (by simp)
    simp only [maxEntry, List.foldr_cons] at this ⊢
    omega

theorem le_maxEntry {table : List Nat} {i : Nat} (h : i ∈ table) : i ≤ maxEntry table := by
  induction table with
  | nil => simp at h
  | cons j table ih =>
    simp only [maxEntry, List.foldr_cons] at ih ⊢
    rcases List.mem_cons.1 h with rfl | h
    · omega
    · have := ih h; omega

/-- A permutation whose entries all name an element of the input. -/
theorem permute_spec {v : Bits} {table : List Nat} (h : ∀ i ∈ table, 1 ≤ i ∧ i ≤ v.length) :
    ∃ out, permute v table = .ok out ∧ out.length = table.length ∧
      ∀ (p i : Nat), table[p]? = some i → out[p]? = v[i - 1]? := by
  obtain ⟨out, ho, hl, hs⟩ := select_spec h
  have hm : ¬ v.length < maxEntry table := Nat.not_lt.2 (maxEntry_le fun i hi => (h i hi).2)
  exact ⟨out, by simp [permute, hm, ho], hl, hs⟩

/-- What the constraints of a configuration say, as propositions. -/
theorem wf_spec {T : Config.Tables} (h : T.wf = true) :
    T.eTable.length = 48 ∧ (∀ i ∈ T.eTable, 1 ≤ i ∧ i ≤ 32) ∧ T.pTable.length = 32 ∧
      (∀ i ∈ T.pTable, 1 ≤ i ∧ i ≤ 32) ∧ (∀ j < 32, T.pTable.count (j + 1) = 1) ∧ T.sBox.length = 8 ∧
      (∀ box ∈ T.sBox, box.length = 4 ∧ ∀ row ∈ box, row.length = 16 ∧ ∀ e ∈ row, e ≤ 15) := by
  simp only [Config.Tables.wf, Bool.and_eq_true, Config.Tables.eShape, Config.Tables.eRange, Config.Tables.pShape,
    Config.Tables.pRange, Config.Tables.pBijective, Config.Tables.sShape, Config.Tables.sRange, List.all_eq_true,
    beq_iff_eq, decide_eq_true_eq, List.mem_range] at h
  obtain ⟨⟨⟨⟨⟨⟨⟨h1, h2⟩, h3⟩, h4⟩, h5⟩, h6, h6'⟩, h7⟩, -⟩ := h
  exact ⟨h1, h2, h3, h4, h5, h6, fun box hb => ⟨(h6' box hb).1, fun row hr => ⟨(h6' box hb).2 row hr, h7 box hb row hr⟩⟩⟩

theorem expand_ok (T : Config.TableConfig) {r : Bits} (h : r.length = 32) :
    ∃ v, expand T.val r = .ok v ∧ v.length = 48 ∧
      ∀ (p i : Nat), T.val.eTable[p]? = some i → v[p]? = r[i - 1]? := by
  obtain ⟨hl, hr, -⟩ := wf_spec T.property
  obtain ⟨v, hv, hvl, hvs⟩ := permute_spec (v := r) (table := T.val.eTable) (by simpa [h] using hr)
  exact ⟨v, by simp [expand, h, hv], by rw [hvl, hl], hvs⟩

theorem finalPermute_ok (T : Config.TableConfig) {r : Bits} (h : r.length = 32) :
    ∃ v, finalPermute T.val r = .ok v ∧ v.length = 32 ∧
      ∀ (p i : Nat), T.val.pTable[p]? = some i → v[p]? = r[i - 1]? := by
  obtain ⟨-, -, hl, hr, -⟩ := wf_spec T.property
  obtain ⟨v, hv, hvl, hvs⟩ := permute_spec (v := r) (table := T.val.pTable) (by simpa [h] using hr)
  exact ⟨v, by simp [finalPermute, h, hv], by rw [hvl, hl], hvs⟩

/-- An S-ROM read inside the ranges of its coordinates. -/
theorem romS_ok (T : Config.TableConfig) {g r c : Nat} (hg : g < 8) (hr : r < 4) (hc : c < 16) :
    ∃ e, romS T.val g r c = some e ∧ e ≤ 15 := by
  obtain ⟨-, -, -, -, -, hl, hb⟩ := wf_spec T.property
  have hg' : g < T.val.sBox.length := by omega
  have h1 := hb T.val.sBox[g] (List.getElem_mem hg')
  have hr' : r < T.val.sBox[g].length := by omega
  have h2 := h1.2 T.val.sBox[g][r] (List.getElem_mem hr')
  have hc' : c < T.val.sBox[g][r].length := by omega
  exact ⟨T.val.sBox[g][r][c], by simp [romS, List.getElem?_eq_getElem hg', List.getElem?_eq_getElem hr',
    List.getElem?_eq_getElem hc'], h2.2 _ (List.getElem_mem hc')⟩

theorem row_lt {x : Bits} (h : x.length = 6) : row x < 4 := by
  have := val_lt (slice x 0 0 ++ slice x 5 5)
  simpa [row, toDecimal, slice, h] using this

theorem col_lt {x : Bits} (h : x.length = 6) : col x < 16 := by
  have := val_lt (slice x 1 4)
  simpa [col, toDecimal, slice, h] using this

/-- One lookup reads one entry and answers it in four bits. -/
theorem sboxLookup_ok (T : Config.TableConfig) {g : Nat} {x : Bits} (hg : g < 8) (h : x.length = 6) :
    ∃ e, romS T.val g (row x) (col x) = some e ∧ e ≤ 15 ∧ sboxLookup T.val g x = .ok (vec 4 e) := by
  obtain ⟨e, he, hle⟩ := romS_ok T hg (row_lt h) (col_lt h)
  exact ⟨e, he, hle, by simp [sboxLookup, h, he, toBinary_ok (show e < 2 ^ 4 by omega)]⟩

/-- The lanes from number `g` on answer four bits each, in order. -/
theorem lanes_ok (T : Config.TableConfig) (xs : List Bits) (g : Nat) (hg : g + xs.length ≤ 8)
    (h : ∀ x ∈ xs, x.length = 6) :
    ∃ v, lanes T.val g xs = .ok v ∧ v.length = 4 * xs.length ∧
      ∀ (k : Nat) (x : Bits), xs[k]? = some x →
        sboxLookup T.val (g + k) x = .ok (slice v (4 * k) (4 * k + 3)) := by
  induction xs generalizing g with
  | nil => exact ⟨[], rfl, rfl, by simp⟩
  | cons x xs ih =>
    simp only [List.length_cons] at hg
    obtain ⟨ys, hys, hl, hs⟩ := ih (g + 1) (by omega) fun y hy => h y (by simp [hy])
    obtain ⟨e, -, -, hx⟩ := sboxLookup_ok T (g := g) (by omega) (h x (by simp))
    refine ⟨vec 4 e ++ ys, by simp [lanes, hx, hys, bind, Except.bind], by simp [hl]; ring, ?_⟩
    intro k y hk
    cases k with
    | zero =>
      obtain rfl : x = y := by simpa using hk
      rw [show g + 0 = g from rfl, hx]
      simp [slice]
    | succ k =>
      have := hs k y (by simpa using hk)
      rw [show g + (k + 1) = g + 1 + k by ring, this]
      simp only [slice, Nat.mul_add]
      rw [List.drop_append, List.drop_eq_nil_of_le (as := vec 4 e) (by simp)]
      simp

theorem group_length {m : Bits} (h : m.length = 48) {g : Nat} (hg : g < 8) : (group m g).length = 6 := by
  simp [group, slice, h]; omega

theorem substitute_ok (T : Config.TableConfig) {m : Bits} (h : m.length = 48) :
    ∃ v, substitute T.val m = .ok v ∧ v.length = 32 ∧
      ∀ g < 8, sboxLookup T.val g (group m g) = .ok (slice v (4 * g) (4 * g + 3)) := by
  obtain ⟨v, hv, hl, hs⟩ := lanes_ok T ((List.range 8).map (group m)) 0 (by simp)
    (by simp only [List.mem_map, List.mem_range]; rintro x ⟨g, hg, rfl⟩; exact group_length h hg)
  refine ⟨v, by simp [substitute, h, hv], by simpa using hl, fun g hg => ?_⟩
  have := hs g (group m g) (by simp [hg])
  simpa using this

theorem roundFunction_ok (T : Config.TableConfig) {r k : Bits} (hr : r.length = 32) (hk : k.length = 48) :
    ∃ v, roundFunction T.val r k = .ok v ∧ v.length = 32 := by
  obtain ⟨x, hx, hxl, -⟩ := expand_ok T hr
  have hm := xor_ok (a := x) (b := k) (by omega)
  have hml := xor_length hm
  obtain ⟨y, hy, hyl, -⟩ := substitute_ok T (hml.2.trans hxl)
  obtain ⟨v, hv, hvl, -⟩ := finalPermute_ok T hyl
  exact ⟨v, by simp [roundFunction, hr, hk, hx, hm, hy, hv, bind, Except.bind], hvl⟩

theorem split_ok {b : Bits} (h : b.length = 64) : split b = .ok (slice b 0 31, slice b 32 63) := if_pos h

theorem encryptOneRound_ok (T : Config.TableConfig) {b k : Bits} (hb : b.length = 64) (hk : k.length = 48) :
    ∃ f nr, roundFunction T.val (slice b 32 63) k = .ok f ∧ f.length = 32 ∧ xor f (slice b 0 31) = .ok nr ∧
      nr.length = 32 ∧ encryptOneRound T.val b k = .ok (slice b 32 63 ++ nr) := by
  have hR : (slice b 32 63).length = 32 := by simp [slice, hb]
  have hL : (slice b 0 31).length = 32 := by simp [slice, hb]
  obtain ⟨f, hf, hfl⟩ := roundFunction_ok T hR hk
  have hx := xor_ok (a := f) (b := slice b 0 31) (by omega)
  refine ⟨f, _, hf, hfl, hx, by rw [(xor_length hx).2, hfl], ?_⟩
  simp [encryptOneRound, split_ok hb, hk, hf, hx, bind, Except.bind]

end Sys2Proof.LayerF
end

