-- ==== Sys2Proof/Laws/State.lean ====
section
/-! SUPPORT. One lemma per field of the state per update of it. -/

namespace Sys2Proof.Machine

@[simp] theorem State.answer_key (w : ResponseWord) (s : State) : (s.answer w).key = s.key := rfl
@[simp] theorem State.answer_block (w : ResponseWord) (s : State) : (s.answer w).block = s.block := rfl
@[simp] theorem State.answer_out (w : ResponseWord) (s : State) : (s.answer w).out = s.out := rfl
@[simp] theorem State.answer_status (w : ResponseWord) (s : State) : (s.answer w).status = s.status := rfl
@[simp] theorem State.answer_host (w : ResponseWord) (s : State) : (s.answer w).host = s.host := rfl
@[simp] theorem State.answer_responses (w : ResponseWord) (s : State) : (s.answer w).responses = s.responses ++ [w] := rfl
@[simp] theorem State.answer_resets (w : ResponseWord) (s : State) : (s.answer w).resets = s.resets := rfl

@[simp] theorem State.respond_key (n : Nat) (v : Bits) (s : State) : (s.respond n v).key = s.key := rfl
@[simp] theorem State.respond_block (n : Nat) (v : Bits) (s : State) : (s.respond n v).block = s.block := rfl
@[simp] theorem State.respond_out (n : Nat) (v : Bits) (s : State) : (s.respond n v).out = s.out := rfl
@[simp] theorem State.respond_status (n : Nat) (v : Bits) (s : State) : (s.respond n v).status = s.status := rfl
@[simp] theorem State.respond_host (n : Nat) (v : Bits) (s : State) : (s.respond n v).host = s.host := rfl
@[simp] theorem State.respond_responses (n : Nat) (v : Bits) (s : State) : (s.respond n v).responses = s.responses ++ [successWord n v] := rfl
@[simp] theorem State.respond_resets (n : Nat) (v : Bits) (s : State) : (s.respond n v).resets = s.resets := rfl

@[simp] theorem State.respondNone_key (s : State) : s.respondNone.key = s.key := rfl
@[simp] theorem State.respondNone_block (s : State) : s.respondNone.block = s.block := rfl
@[simp] theorem State.respondNone_out (s : State) : s.respondNone.out = s.out := rfl
@[simp] theorem State.respondNone_status (s : State) : s.respondNone.status = s.status := rfl
@[simp] theorem State.respondNone_host (s : State) : s.respondNone.host = s.host := rfl
@[simp] theorem State.respondNone_responses (s : State) : s.respondNone.responses = s.responses ++ [successWord 0 []] := rfl
@[simp] theorem State.respondNone_resets (s : State) : s.respondNone.resets = s.resets := rfl

@[simp] theorem State.raiseFault_key (c : Cause) (s : State) : (s.raiseFault c).key = s.key := rfl
@[simp] theorem State.raiseFault_block (c : Cause) (s : State) : (s.raiseFault c).block = s.block := rfl
@[simp] theorem State.raiseFault_out (c : Cause) (s : State) : (s.raiseFault c).out = s.out := rfl
@[simp] theorem State.raiseFault_status (c : Cause) (s : State) : (s.raiseFault c).status = recordFault c s.status := rfl
@[simp] theorem State.raiseFault_host (c : Cause) (s : State) : (s.raiseFault c).host = s.host := rfl
@[simp] theorem State.raiseFault_responses (c : Cause) (s : State) : (s.raiseFault c).responses = s.responses ++ [faultWord c] := rfl
@[simp] theorem State.raiseFault_resets (c : Cause) (s : State) : (s.raiseFault c).resets = s.resets := rfl

@[simp] theorem State.loadKey_key (k : BitVec 48) (s : State) : (s.loadKey k).key = k := rfl
@[simp] theorem State.loadKey_block (k : BitVec 48) (s : State) : (s.loadKey k).block = s.block := rfl
@[simp] theorem State.loadKey_out (k : BitVec 48) (s : State) : (s.loadKey k).out = s.out := rfl
@[simp] theorem State.loadKey_status (k : BitVec 48) (s : State) : (s.loadKey k).status = setKV s.status := rfl
@[simp] theorem State.loadKey_host (k : BitVec 48) (s : State) : (s.loadKey k).host = s.host := rfl
@[simp] theorem State.loadKey_responses (k : BitVec 48) (s : State) : (s.loadKey k).responses = s.responses := rfl
@[simp] theorem State.loadKey_resets (k : BitVec 48) (s : State) : (s.loadKey k).resets = s.resets := rfl

@[simp] theorem State.loadBlock_key (b : BitVec 64) (s : State) : (s.loadBlock b).key = s.key := rfl
@[simp] theorem State.loadBlock_block (b : BitVec 64) (s : State) : (s.loadBlock b).block = b := rfl
@[simp] theorem State.loadBlock_out (b : BitVec 64) (s : State) : (s.loadBlock b).out = s.out := rfl
@[simp] theorem State.loadBlock_status (b : BitVec 64) (s : State) : (s.loadBlock b).status = setBV s.status := rfl
@[simp] theorem State.loadBlock_host (b : BitVec 64) (s : State) : (s.loadBlock b).host = s.host := rfl
@[simp] theorem State.loadBlock_responses (b : BitVec 64) (s : State) : (s.loadBlock b).responses = s.responses := rfl
@[simp] theorem State.loadBlock_resets (b : BitVec 64) (s : State) : (s.loadBlock b).resets = s.resets := rfl

@[simp] theorem State.writeOut_key (y : BitVec 64) (s : State) : (s.writeOut y).key = s.key := rfl
@[simp] theorem State.writeOut_block (y : BitVec 64) (s : State) : (s.writeOut y).block = s.block := rfl
@[simp] theorem State.writeOut_out (y : BitVec 64) (s : State) : (s.writeOut y).out = y := rfl
@[simp] theorem State.writeOut_status (y : BitVec 64) (s : State) : (s.writeOut y).status = setOV s.status := rfl
@[simp] theorem State.writeOut_host (y : BitVec 64) (s : State) : (s.writeOut y).host = s.host := rfl
@[simp] theorem State.writeOut_responses (y : BitVec 64) (s : State) : (s.writeOut y).responses = s.responses := rfl
@[simp] theorem State.writeOut_resets (y : BitVec 64) (s : State) : (s.writeOut y).resets = s.resets := rfl

@[simp] theorem State.hostReset_key (s : State) : s.hostReset.key = Config.resetKey s.resets := rfl
@[simp] theorem State.hostReset_block (s : State) : s.hostReset.block = Config.resetBlock s.resets := rfl
@[simp] theorem State.hostReset_out (s : State) : s.hostReset.out = Config.resetOut s.resets := rfl
@[simp] theorem State.hostReset_status (s : State) : s.hostReset.status = 0#8 := rfl
@[simp] theorem State.hostReset_host (s : State) : s.hostReset.host = s.host := rfl
@[simp] theorem State.hostReset_responses (s : State) : s.hostReset.responses = s.responses := rfl
@[simp] theorem State.hostReset_resets (s : State) : s.hostReset.resets = s.resets + 1 := rfl

@[simp] theorem State.sending_key (ws : List CommandWord) (s : State) : (s.sending ws).key = s.key := rfl
@[simp] theorem State.sending_block (ws : List CommandWord) (s : State) : (s.sending ws).block = s.block := rfl
@[simp] theorem State.sending_out (ws : List CommandWord) (s : State) : (s.sending ws).out = s.out := rfl
@[simp] theorem State.sending_status (ws : List CommandWord) (s : State) : (s.sending ws).status = s.status := rfl
@[simp] theorem State.sending_host (ws : List CommandWord) (s : State) : (s.sending ws).host = ws.map HostEvent.command := rfl
@[simp] theorem State.sending_responses (ws : List CommandWord) (s : State) : (s.sending ws).responses = s.responses := rfl
@[simp] theorem State.sending_resets (ws : List CommandWord) (s : State) : (s.sending ws).resets = s.resets := rfl

end Sys2Proof.Machine
end

