-- ==== Sys2Proof/Laws/Flags.lean ====
section
/-! SUPPORT. What each update of STATUS does to each of its fields (10_state.md R25 to R27), and the fields of a
response word (30_encoding.md R68). -/

namespace Sys2Proof.Machine

@[simp] theorem setKV_fields (st : BitVec 8) :
    statusKV (setKV st) = true ∧ statusBV (setKV st) = statusBV st ∧ statusOV (setKV st) = statusOV st ∧
      statusERR (setKV st) = statusERR st ∧ statusCAUSE (setKV st) = statusCAUSE st ∧
      statusBit7 (setKV st) = statusBit7 st := by
  revert st; decide +kernel

@[simp] theorem setBV_fields (st : BitVec 8) :
    statusBV (setBV st) = true ∧ statusKV (setBV st) = statusKV st ∧ statusOV (setBV st) = statusOV st ∧
      statusERR (setBV st) = statusERR st ∧ statusCAUSE (setBV st) = statusCAUSE st ∧
      statusBit7 (setBV st) = statusBit7 st := by
  revert st; decide +kernel

@[simp] theorem setOV_fields (st : BitVec 8) :
    statusOV (setOV st) = true ∧ statusKV (setOV st) = statusKV st ∧ statusBV (setOV st) = statusBV st ∧
      statusERR (setOV st) = statusERR st ∧ statusCAUSE (setOV st) = statusCAUSE st ∧
      statusBit7 (setOV st) = statusBit7 st := by
  revert st; decide +kernel

@[simp] theorem recordFault_fields (c : Cause) (st : BitVec 8) :
    statusERR (recordFault c st) = true ∧ statusCAUSE (recordFault c st) = c.code ∧
      statusKV (recordFault c st) = statusKV st ∧ statusBV (recordFault c st) = statusBV st ∧
      statusOV (recordFault c st) = statusOV st ∧ statusBit7 (recordFault c st) = statusBit7 st := by
  revert st; cases c <;> decide +kernel

/-- STATUS is its fields. -/
theorem status_ext (x y : BitVec 8) (h0 : statusKV x = statusKV y) (h1 : statusBV x = statusBV y)
    (h2 : statusOV x = statusOV y) (h3 : statusERR x = statusERR y) (h4 : statusCAUSE x = statusCAUSE y)
    (h7 : statusBit7 x = statusBit7 y) : x = y := by
  have h456 : ∀ j, x.getLsbD (4 + j) = y.getLsbD (4 + j) ∨ 3 ≤ j := fun j => by
    have := congrArg (fun z : BitVec 3 => z.getLsbD j) h4
    simp only [statusCAUSE, BitVec.getLsbD_extractLsb'] at this
    by_cases hj : j < 3 <;> simp_all
  refine BitVec.eq_of_getLsbD_eq fun i hi => ?_
  match i, hi with
  | 0, _ => exact h0
  | 1, _ => exact h1
  | 2, _ => exact h2
  | 3, _ => exact h3
  | 4, _ => simpa using h456 0
  | 5, _ => simpa using h456 1
  | 6, _ => simpa using h456 2
  | 7, _ => exact h7

theorem Cause.code_injective (c d : Cause) (h : c.code = d.code) : c = d := by
  revert h; cases c <;> cases d <;> decide

/-- R68: the fields of a response word are the fields it was made of. -/
@[simp] theorem word_fields (r : Response) :
    rspErr r.word = r.err ∧ rspCause r.word = r.cause.code ∧ rspLen r.word = r.len ∧ rspData r.word = r.data := by
  obtain ⟨e, c, l, d⟩ := r
  refine ⟨?_, ?_, ?_, ?_⟩
  · rw [rspErr, Response.word, BitVec.getLsbD_append, BitVec.getLsbD_append, BitVec.getLsbD_append]
    simp
  · refine BitVec.eq_of_getLsbD_eq fun i hi => ?_
    simp only [rspCause, Response.word, BitVec.getLsbD_extractLsb', BitVec.getLsbD_append, hi,
      show ¬ 72 + i < 64 by omega, show ¬ 72 + i - 64 < 8 by omega, show 72 + i - 64 - 8 = i by omega]
    simp
  · refine BitVec.eq_of_getLsbD_eq fun i hi => ?_
    simp only [rspLen, Response.word, BitVec.getLsbD_extractLsb', BitVec.getLsbD_append, hi,
      show ¬ 64 + i < 64 by omega, show 64 + i - 64 = i by omega]
    simp
  · refine BitVec.eq_of_getLsbD_eq fun i hi => ?_
    simp only [rspData, Response.word, BitVec.getLsbD_extractLsb', BitVec.getLsbD_append, hi, Nat.zero_add]
    simp

/-- R180: a cause that is recorded has a code from 1 to 6. -/
theorem Cause.code_range (c : Cause) (h : c ≠ .none) : 1 ≤ c.code.toNat ∧ c.code.toNat ≤ 6 := by
  revert h; cases c <;> decide

/-- R68: the fields of a successful response. -/
theorem okWord_fields (len : BitVec 8) (data : BitVec 64) : rspErr (okWord len data) = false ∧
    rspCause (okWord len data) = 0#3 ∧
    rspLen (okWord len data) = len ∧ rspData (okWord len data) = data := by
  have := word_fields { err := false, cause := .none, len := len, data := data }
  exact this

/-- R68, R188: the fields of a faulting response. -/
theorem faultWord_fields (c : Cause) : rspErr (faultWord c) = true ∧ rspCause (faultWord c) = c.code ∧
    rspLen (faultWord c) = 0#8 ∧ rspData (faultWord c) = 0#64 := by
  have := word_fields { err := true, cause := c, len := 0#8, data := 0#64 }
  exact this

theorem zero_ok : (0#76 : ResponseWord) = okWord 0#8 0#64 := by decide

/-- R188 (a): a fault keeps the valid flags, so that the checks of the next command find them as they were. -/
@[simp] theorem State.raiseFault_kv (c : Cause) (s : State) : (s.raiseFault c).kv = s.kv := by simp [State.kv]

@[simp] theorem State.raiseFault_bv (c : Cause) (s : State) : (s.raiseFault c).bv = s.bv := by simp [State.bv]

@[simp] theorem State.raiseFault_ov (c : Cause) (s : State) : (s.raiseFault c).ov = s.ov := by simp [State.ov]

end Sys2Proof.Machine
end

