-- ==== Sys2Proof/Laws/Ops.lean ====
section
/-! SUPPORT. What each shared operation can do, said once. -/

namespace Sys2Proof.Machine

@[simp] theorem successWord_nil : successWord 0 [] = 0#76 := by decide

/-- A success whose result is a register's content. -/
theorem successWord_ofReg {w : Nat} (x : BitVec w) :
    successWord w (LayerF.ofReg x) = okWord (BitVec.ofNat 8 w) (x.setWidth 64) := by
  simp [successWord, okWord, LayerF.carry_ofReg]

theorem respond_ofReg {w : Nat} (x : BitVec w) (s : State) :
    s.respond w (LayerF.ofReg x) = s.answer (okWord (BitVec.ofNat 8 w) (x.setWidth 64)) := by
  rw [State.respond, successWord_ofReg]

/-- A command of format V: the length fault, or the continuation on the operand. -/
theorem withOperand_cases (n : Nat) (c : Cause) (len : BitVec 8) (data : BitVec 64) (s : State)
    (k : Bits → Host.Outcome State Fault Refusal) :
    (len.toNat ≠ n ∧ withOperand n c len data s k = .next (s.raiseFault c)) ∨
      (len.toNat = n ∧ withOperand n c len data s k = k (LayerF.take n data)) := by
  unfold withOperand
  split <;> simp_all

theorem withOperand_bad {n : Nat} {c : Cause} {len : BitVec 8} (data : BitVec 64) (s : State)
    (k : Bits → Host.Outcome State Fault Refusal) (h : len.toNat ≠ n) :
    withOperand n c len data s k = .next (s.raiseFault c) := if_neg h

theorem withOperand_good {n : Nat} {c : Cause} {len : BitVec 8} (data : BitVec 64) (s : State)
    (k : Bits → Host.Outcome State Fault Refusal) (h : len.toNat = n) :
    withOperand n c len data s k = k (LayerF.ofReg (data.extractLsb' 0 n)) := if_pos h

theorem requireLoaded_true {b : Bool} (s : State) (k : Host.Outcome State Fault Refusal) (h : b = true) :
    requireLoaded b s k = k := if_pos h

theorem requireLoaded_false {b : Bool} (s : State) (k : Host.Outcome State Fault Refusal) (h : b = false) :
    requireLoaded b s k = .next (s.raiseFault .notLoaded) := by simp [requireLoaded, h]

theorem withResult_ok {r : Except LayerFError Bits} {v : Bits} (k : Bits → State) (h : r = .ok v) :
    withResult r k = .next (k v) := by subst h; rfl

end Sys2Proof.Machine
end

