-- ==== Sys2Proof/Laws/Commands.lean ====
section
/-! SUPPORT. What each command can do, said once: it succeeds with its effect, or takes its fault; and the inversion
lemma over all commands that the whole-machine claims rest on. -/

namespace Sys2Proof.Machine

open LayerF

theorem result_reg {r : Except LayerFError Bits} {v : Bits} {w : Nat} (h : r = .ok v) (hl : v.length = w) :
    ∃ x : BitVec w, r = .ok (ofReg x) := ⟨toReg w v, by rw [ofReg_toReg v hl, h]⟩

theorem ldkey_good (data : BitVec 64) (s : State) :
    exec (.ldkey 48#8 data) s = .next ((s.loadKey (data.extractLsb' 0 48)).answer 0#76) := by
  simp [exec, execLdkey, withOperand, take_eq_ofReg, State.respondNone, State.respond]

theorem ldblk_good (data : BitVec 64) (s : State) :
    exec (.ldblk 64#8 data) s = .next ((s.loadBlock data).answer 0#76) := by
  simp [exec, execLdblk, withOperand, take_eq_ofReg, State.respondNone, State.respond]

theorem enc_good (len : BitVec 8) (data : BitVec 64) (s : State) (hb : s.bv = true) (hk : s.kv = true) :
    ∃ y : BitVec 64, encryptOneRound Config.tables.val (ofReg s.block) (ofReg s.key) = .ok (ofReg y) ∧
      exec (.enc len data) s = .next ((s.writeOut y).answer (okWord 64#8 y)) := by
  obtain ⟨f, nr, -, -, -, hl, h⟩ := encryptOneRound_ok Config.tables (b := ofReg s.block)
    (k := ofReg s.key) (by simp) (by simp)
  obtain ⟨y, hy⟩ := result_reg (w := 64) h (by simp [slice, hl])
  refine ⟨y, hy, ?_⟩
  simp [exec, execEnc, hb, hk, requireLoaded, withResult_ok _ hy, respond_ofReg]

theorem rdout_good (len : BitVec 8) (data : BitVec 64) (s : State) (h : s.ov = true) :
    exec (.rdout len data) s = .next (s.answer (okWord 64#8 s.out)) := by
  simp [exec, execRdout, h, requireLoaded, respond_ofReg]

theorem mix_good (data : BitVec 64) (s : State) (h : s.kv = true) :
    exec (.mix 48#8 data) s = .next (s.answer (okWord 48#8 ((data.extractLsb' 0 48 ^^^ s.key).setWidth 64))) := by
  simp only [exec, execMix]
  rw [withOperand_good _ _ _ (by rfl), requireLoaded_true _ _ h, withResult_ok _ (xor_ofReg _ _), respond_ofReg]

theorem exp_good (data : BitVec 64) (s : State) :
    ∃ v : BitVec 48, expand Config.tables.val (ofReg (data.extractLsb' 0 32)) = .ok (ofReg v) ∧
      exec (.exp 32#8 data) s = .next (s.answer (okWord 48#8 (v.setWidth 64))) := by
  obtain ⟨v, hv, hl, -⟩ := expand_ok Config.tables (r := ofReg (data.extractLsb' 0 32)) (by simp)
  obtain ⟨y, hy⟩ := result_reg hv hl
  refine ⟨y, hy, ?_⟩
  simp only [exec, execExp]
  rw [withOperand_good _ _ _ (by rfl), withResult_ok _ hy, respond_ofReg]

theorem prm_good (data : BitVec 64) (s : State) :
    ∃ v : BitVec 32, finalPermute Config.tables.val (ofReg (data.extractLsb' 0 32)) = .ok (ofReg v) ∧
      exec (.prm 32#8 data) s = .next (s.answer (okWord 32#8 (v.setWidth 64))) := by
  obtain ⟨v, hv, hl, -⟩ := finalPermute_ok Config.tables (r := ofReg (data.extractLsb' 0 32)) (by simp)
  obtain ⟨y, hy⟩ := result_reg hv hl
  refine ⟨y, hy, ?_⟩
  simp only [exec, execPrm]
  rw [withOperand_good _ _ _ (by rfl), withResult_ok _ hy, respond_ofReg]

theorem sub_good (data : BitVec 64) (s : State) :
    ∃ v : BitVec 32, substitute Config.tables.val (ofReg (data.extractLsb' 0 48)) = .ok (ofReg v) ∧
      exec (.sub 48#8 data) s = .next (s.answer (okWord 32#8 (v.setWidth 64))) := by
  obtain ⟨v, hv, hl, -⟩ := substitute_ok Config.tables (m := ofReg (data.extractLsb' 0 48)) (by simp)
  obtain ⟨y, hy⟩ := result_reg hv hl
  refine ⟨y, hy, ?_⟩
  simp only [exec, execSub]
  rw [withOperand_good _ _ _ (by rfl), withResult_ok _ hy, respond_ofReg]

theorem rf_good (data : BitVec 64) (s : State) (h : s.kv = true) :
    ∃ v : BitVec 32, roundFunction Config.tables.val (ofReg (data.extractLsb' 0 32)) (ofReg s.key) =
        .ok (ofReg v) ∧
      exec (.rf 32#8 data) s = .next (s.answer (okWord 32#8 (v.setWidth 64))) := by
  obtain ⟨v, hv, hl⟩ := roundFunction_ok Config.tables (r := ofReg (data.extractLsb' 0 32))
    (k := ofReg s.key) (by simp) (by simp)
  obtain ⟨y, hy⟩ := result_reg hv hl
  refine ⟨y, hy, ?_⟩
  simp only [exec, execRf]
  rw [withOperand_good _ _ _ (by rfl), requireLoaded_true _ _ h, withResult_ok _ hy, respond_ofReg]

theorem nop_good (len : BitVec 8) (data : BitVec 64) (s : State) : exec (.nop len data) s = .next (s.answer 0#76) := rfl

theorem rdst_good (len : BitVec 8) (data : BitVec 64) (s : State) :
    exec (.rdst len data) s = .next (s.answer (okWord 8#8 (s.status.setWidth 64))) := by
  simp [exec, execRdst, respond_ofReg]

theorem ldkey_bad {len : BitVec 8} (data : BitVec 64) (s : State) (h : len ≠ 48#8) :
    exec (.ldkey len data) s = .next (s.raiseFault .lenXor) := by
  rw [exec, execLdkey]
  exact withOperand_bad _ _ _ (len_ne h (by decide))

theorem mix_bad {len : BitVec 8} (data : BitVec 64) (s : State) (h : len ≠ 48#8) :
    exec (.mix len data) s = .next (s.raiseFault .lenXor) := by
  rw [exec, execMix]
  exact withOperand_bad _ _ _ (len_ne h (by decide))

theorem ldblk_bad {len : BitVec 8} (data : BitVec 64) (s : State) (h : len ≠ 64#8) :
    exec (.ldblk len data) s = .next (s.raiseFault .lenBlock) := by
  rw [exec, execLdblk]
  exact withOperand_bad _ _ _ (len_ne h (by decide))

theorem rf_bad {len : BitVec 8} (data : BitVec 64) (s : State) (h : len ≠ 32#8) :
    exec (.rf len data) s = .next (s.raiseFault .lenHalf) := by
  rw [exec, execRf]
  exact withOperand_bad _ _ _ (len_ne h (by decide))

theorem exp_bad {len : BitVec 8} (data : BitVec 64) (s : State) (h : len ≠ 32#8) :
    exec (.exp len data) s = .next (s.raiseFault .lenStage) := by
  rw [exec, execExp]
  exact withOperand_bad _ _ _ (len_ne h (by decide))

theorem prm_bad {len : BitVec 8} (data : BitVec 64) (s : State) (h : len ≠ 32#8) :
    exec (.prm len data) s = .next (s.raiseFault .lenStage) := by
  rw [exec, execPrm]
  exact withOperand_bad _ _ _ (len_ne h (by decide))

theorem sub_bad {len : BitVec 8} (data : BitVec 64) (s : State) (h : len ≠ 48#8) :
    exec (.sub len data) s = .next (s.raiseFault .lenStage) := by
  rw [exec, execSub]
  exact withOperand_bad _ _ _ (len_ne h (by decide))

theorem enc_unloaded (len : BitVec 8) (data : BitVec 64) (s : State) (h : s.kv = false ∨ s.bv = false) :
    exec (.enc len data) s = .next (s.raiseFault .notLoaded) := by
  rcases h with h | h <;> simp [exec, execEnc, h, requireLoaded]

theorem mix_unloaded (data : BitVec 64) (s : State) (h : s.kv = false) :
    exec (.mix 48#8 data) s = .next (s.raiseFault .notLoaded) := by simp [exec, execMix, withOperand, h, requireLoaded]

theorem rf_unloaded (data : BitVec 64) (s : State) (h : s.kv = false) :
    exec (.rf 32#8 data) s = .next (s.raiseFault .notLoaded) := by simp [exec, execRf, withOperand, h, requireLoaded]

theorem rdout_unloaded (len : BitVec 8) (data : BitVec 64) (s : State) (h : s.ov = false) :
    exec (.rdout len data) s = .next (s.raiseFault .notLoaded) := by simp [exec, execRdout, h, requireLoaded]

/-- Everything a command can do to a state. -/
inductive CommandEffect (s : State) : Instr → State → Prop
  | fault (i : Instr) (c : Cause) (h : firstFault i s = some c) (hc : c ≠ .none) :
      CommandEffect s i (s.raiseFault c)
  | answer (i : Instr) (len : BitVec 8) (data : BitVec 64) (h : firstFault i s = none)
      (hl : len.toNat = resultLength i) (hd : data.toNat < 2 ^ resultLength i) :
      CommandEffect s i (s.answer (okWord len data))
  | ldkey (data : BitVec 64) :
      CommandEffect s (.ldkey 48#8 data) ((s.loadKey (data.extractLsb' 0 48)).answer 0#76)
  | ldblk (data : BitVec 64) : CommandEffect s (.ldblk 64#8 data) ((s.loadBlock data).answer 0#76)
  | enc (len : BitVec 8) (data y : BitVec 64) (hk : s.kv = true) (hb : s.bv = true) :
      CommandEffect s (.enc len data) ((s.writeOut y).answer (okWord 64#8 y))

theorem setWidth_lt {n : Nat} (x : BitVec n) (m : Nat) : (x.setWidth m).toNat < 2^n := by
  simp only [BitVec.toNat_setWidth]; exact lt_of_le_of_lt (Nat.mod_le _ _) x.isLt

/-- Every command ends in a next state, and in one of these ways. -/
theorem exec_effect (i : Instr) (s : State) : ∃ t, exec i s = .next t ∧ CommandEffect s i t := by
  cases i with
  | nop l d => exact ⟨_, nop_good l d s,
        .answer _ 0#8 0#64 (by simp [firstFault, Instr.op, neededLength, readsUnloaded]) rfl (by simp [resultLength])⟩
  | rdst l d => exact ⟨_, rdst_good l d s,
        .answer _ _ _ (by simp [firstFault, Instr.op, neededLength, readsUnloaded]) rfl (setWidth_lt _ _)⟩
  | ldkey l d =>
    by_cases h : l = 48#8
    · subst h; exact ⟨_, ldkey_good d s, .ldkey d⟩
    · exact ⟨_, ldkey_bad d s h,
        .fault _ _ (by
          simp [firstFault, Instr.op, neededLength, Instr.len, lengthCause, len_ne h]) (by simp)⟩
  | ldblk l d =>
    by_cases h : l = 64#8
    · subst h; exact ⟨_, ldblk_good d s, .ldblk d⟩
    · exact ⟨_, ldblk_bad d s h,
        .fault _ _ (by
          simp [firstFault, Instr.op, neededLength, Instr.len, lengthCause, len_ne h]) (by simp)⟩
  | enc l d =>
    by_cases hk : s.kv = true
    · by_cases hb : s.bv = true
      · obtain ⟨y, -, h⟩ := enc_good l d s hb hk
        exact ⟨_, h, .enc l d y hk hb⟩
      · exact ⟨_, enc_unloaded l d s (.inr (by simpa using hb)),
        .fault _ _ (by simp [firstFault, Instr.op, neededLength, readsUnloaded, hb]) (by simp)⟩
    · exact ⟨_, enc_unloaded l d s (.inl (by simpa using hk)),
        .fault _ _ (by simp [firstFault, Instr.op, neededLength, readsUnloaded, hk]) (by simp)⟩
  | rdout l d =>
    by_cases h : s.ov = true
    · exact ⟨_, rdout_good l d s h,
        .answer _ _ _ (by simp [firstFault, Instr.op, neededLength, readsUnloaded, h]) rfl (s.out.isLt)⟩
    · exact ⟨_, rdout_unloaded l d s (by simpa using h),
        .fault _ _ (by simp [firstFault, Instr.op, neededLength, readsUnloaded, h]) (by simp)⟩
  | exp l d =>
    by_cases h : l = 32#8
    · subst h
      obtain ⟨v, -, h⟩ := exp_good d s
      exact ⟨_, h,
        .answer _ _ _ (by simp [firstFault, Instr.op, neededLength, Instr.len, readsUnloaded]) rfl (setWidth_lt _ _)⟩
    · exact ⟨_, exp_bad d s h,
        .fault _ _ (by
          simp [firstFault, Instr.op, neededLength, Instr.len, lengthCause, len_ne h]) (by simp)⟩
  | prm l d =>
    by_cases h : l = 32#8
    · subst h
      obtain ⟨v, -, h⟩ := prm_good d s
      exact ⟨_, h,
        .answer _ _ _ (by simp [firstFault, Instr.op, neededLength, Instr.len, readsUnloaded]) rfl (setWidth_lt _ _)⟩
    · exact ⟨_, prm_bad d s h,
        .fault _ _ (by
          simp [firstFault, Instr.op, neededLength, Instr.len, lengthCause, len_ne h]) (by simp)⟩
  | sub l d =>
    by_cases h : l = 48#8
    · subst h
      obtain ⟨v, -, h⟩ := sub_good d s
      exact ⟨_, h,
        .answer _ _ _ (by simp [firstFault, Instr.op, neededLength, Instr.len, readsUnloaded]) rfl (setWidth_lt _ _)⟩
    · exact ⟨_, sub_bad d s h,
        .fault _ _ (by
          simp [firstFault, Instr.op, neededLength, Instr.len, lengthCause, len_ne h]) (by simp)⟩
  | mix l d =>
    by_cases h : l = 48#8
    · subst h
      by_cases hk : s.kv = true
      · exact ⟨_, mix_good d s hk,
        .answer _ _ _ (by simp [firstFault, Instr.op, neededLength, Instr.len, readsUnloaded, hk]) rfl (setWidth_lt _ _)⟩
      · exact ⟨_, mix_unloaded d s (by simpa using hk),
        .fault _ _ (by simp [firstFault, Instr.op, neededLength, Instr.len, readsUnloaded, hk]) (by simp)⟩
    · exact ⟨_, mix_bad d s h,
        .fault _ _ (by
          simp [firstFault, Instr.op, neededLength, Instr.len, lengthCause, len_ne h]) (by simp)⟩
  | rf l d =>
    by_cases h : l = 32#8
    · subst h
      by_cases hk : s.kv = true
      · obtain ⟨v, -, h⟩ := rf_good d s hk
        exact ⟨_, h,
        .answer _ _ _ (by simp [firstFault, Instr.op, neededLength, Instr.len, readsUnloaded, hk]) rfl (setWidth_lt _ _)⟩
      · exact ⟨_, rf_unloaded d s (by simpa using hk),
        .fault _ _ (by simp [firstFault, Instr.op, neededLength, Instr.len, readsUnloaded, hk]) (by simp)⟩
    · exact ⟨_, rf_bad d s h,
        .fault _ _ (by
          simp [firstFault, Instr.op, neededLength, Instr.len, lengthCause, len_ne h]) (by simp)⟩
  | reservedB l d => exact ⟨_, rfl,
        .fault _ _ (by simp [firstFault, Instr.op]) (by simp)⟩
  | reservedC l d => exact ⟨_, rfl,
        .fault _ _ (by simp [firstFault, Instr.op]) (by simp)⟩
  | reservedD l d => exact ⟨_, rfl,
        .fault _ _ (by simp [firstFault, Instr.op]) (by simp)⟩
  | reservedE l d => exact ⟨_, rfl,
        .fault _ _ (by simp [firstFault, Instr.op]) (by simp)⟩
  | reservedF l d => exact ⟨_, rfl,
        .fault _ _ (by simp [firstFault, Instr.op]) (by simp)⟩

end Sys2Proof.Machine
end

