-- ==== Sys2Proof/Laws/PerInstr.lean ====
section
/-! SUPPORT. Statements about every instruction as syntax, one lemma per constructor. -/

namespace Sys2Proof.Laws.Fields

/-- R60, R62: the word of an instruction carries its opcode, its declared length and its data in the fields of the
layout. -/
def Statement (i : Instr) : Prop :=
  wordOp (encode i) = i.op ∧ wordLen (encode i) = i.len ∧ wordData (encode i) = i.data

theorem nop (len : BitVec 8) (data : BitVec 64) : Statement (.nop len data) := makeWord_fields _ _ _

theorem ldkey (len : BitVec 8) (data : BitVec 64) : Statement (.ldkey len data) := makeWord_fields _ _ _

theorem ldblk (len : BitVec 8) (data : BitVec 64) : Statement (.ldblk len data) := makeWord_fields _ _ _

theorem enc (len : BitVec 8) (data : BitVec 64) : Statement (.enc len data) := makeWord_fields _ _ _

theorem rdout (len : BitVec 8) (data : BitVec 64) : Statement (.rdout len data) := makeWord_fields _ _ _

theorem exp (len : BitVec 8) (data : BitVec 64) : Statement (.exp len data) := makeWord_fields _ _ _

theorem mix (len : BitVec 8) (data : BitVec 64) : Statement (.mix len data) := makeWord_fields _ _ _

theorem sub (len : BitVec 8) (data : BitVec 64) : Statement (.sub len data) := makeWord_fields _ _ _

theorem prm (len : BitVec 8) (data : BitVec 64) : Statement (.prm len data) := makeWord_fields _ _ _

theorem rf (len : BitVec 8) (data : BitVec 64) : Statement (.rf len data) := makeWord_fields _ _ _

theorem rdst (len : BitVec 8) (data : BitVec 64) : Statement (.rdst len data) := makeWord_fields _ _ _

theorem reservedB (len : BitVec 8) (data : BitVec 64) : Statement (.reservedB len data) := makeWord_fields _ _ _

theorem reservedC (len : BitVec 8) (data : BitVec 64) : Statement (.reservedC len data) := makeWord_fields _ _ _

theorem reservedD (len : BitVec 8) (data : BitVec 64) : Statement (.reservedD len data) := makeWord_fields _ _ _

theorem reservedE (len : BitVec 8) (data : BitVec 64) : Statement (.reservedE len data) := makeWord_fields _ _ _

theorem reservedF (len : BitVec 8) (data : BitVec 64) : Statement (.reservedF len data) := makeWord_fields _ _ _

end Sys2Proof.Laws.Fields
end

