-- ==== Sys2Proof/Laws/Step.lean ====
section
/-! SUPPORT. A run is its first step and the run of the rest; a command leaves the host's moves and the count of resets
as they are and answers once. -/

namespace Sys2Proof.Machine

/-- A run whose first step goes on. -/
theorem run_next {n : Nat} {s u : State} (h : step s = .next u) :
    Host.Core.run Sys2Proof.core (n + 1) s = Host.Core.run Sys2Proof.core n u := by
  have g : ∀ M : Host.Core, ∀ x y : M.State, M.step x = .next y → M.run (n + 1) x = M.run n y := by
    intro M x y e
    rw [Host.Core.run, e]
  exact g Sys2Proof.core s u h

theorem CommandEffect.frame {i : Instr} {s t : State} (h : CommandEffect s i t) :
    t.host = s.host ∧ t.resets = s.resets ∧ ∃ w, t.responses = s.responses ++ [w] := by
  cases h <;> exact ⟨rfl, rfl, _, rfl⟩

end Sys2Proof.Machine
end

