-- ==== Sys2Proof/Tests/Slice0.lean ====
section
/-! SUPPORT. Tests: expected results are the spec's own numbers (95_test_vectors.md, by their labels) or follow from a
rule by hand; and, for every statement with hypotheses, inputs that meet them. -/

namespace Sys2Proof.Tests

open Sys2Proof.Machine

set_option Elab.async false

/-- A state with these registers, nothing presented and nothing answered. -/
def st (key : BitVec 48) (block out : BitVec 64) (status : BitVec 8) : State where
  key       := key
  block     := block
  out       := out
  status    := status
  host      := []
  responses := []
  resets    := 1

/-- KEY, BLOCK and OUT loaded, as after commands 1 to 3 of program P1. -/
def loaded : State := st 0x1B02EFFC7072#48 0xCC00CCFFF0AAF0AA#64 0xF0AAF0AAEF4A6544#64 0x07#8

/-- The next state, where there is one. -/
def nextOf : Host.Outcome State Fault Refusal → Option State
  | .next t => some t
  | .fault _ => none
  | .refused _ => none

/-- The responses and STATUS after one command word. -/
def answer (w : CommandWord) (s : State) : Option (List ResponseWord × BitVec 8) :=
  (nextOf (exec (decode w) s)).map fun t => (t.responses, t.status)

/-- KEY, BLOCK and OUT after one command word. -/
def registers (w : CommandWord) (s : State) : Option (BitVec 48 × BitVec 64 × BitVec 64) :=
  (nextOf (exec (decode w) s)).map fun t => (t.key, t.block, t.out)

/- ---- Well-formedness: an ill-formed term for each check ---- -/

/-- The default tables with one of the three replaced. -/
def withE (e : List Nat) : Config.Tables := { Config.defaultTables with eTable := e }

def withP (p : List Nat) : Config.Tables := { Config.defaultTables with pTable := p }

def withS (b : List (List (List Nat))) : Config.Tables := { Config.defaultTables with sBox := b }

theorem test_tables_wf : Config.defaultTables.wf = true := by decide +kernel

theorem test_tables_eShape :
    (withE (Config.defaultTables.eTable.drop 1)).eShape = false ∧
    (withE (Config.defaultTables.eTable.drop 1)).wf = false := by decide +kernel

theorem test_tables_eRange :
    (withE (33 :: Config.defaultTables.eTable.drop 1)).eRange = false ∧
    (withE (0 :: Config.defaultTables.eTable.drop 1)).wf = false := by decide +kernel

theorem test_tables_pShape :
    (withP (Config.defaultTables.pTable ++ [1])).pShape = false ∧
    (withP (Config.defaultTables.pTable ++ [1])).wf = false := by decide +kernel

theorem test_tables_pRange :
    (withP (33 :: Config.defaultTables.pTable.drop 1)).pRange = false ∧
    (withP (0 :: Config.defaultTables.pTable.drop 1)).wf = false := by decide +kernel

theorem test_tables_pBijective :
    (withP (7 :: Config.defaultTables.pTable.drop 1)).pRange = true ∧
    (withP (7 :: Config.defaultTables.pTable.drop 1)).pBijective = false ∧
    (withP (7 :: Config.defaultTables.pTable.drop 1)).wf = false := by decide +kernel

theorem test_tables_sShape :
    (withS (Config.defaultTables.sBox.drop 1)).sShape = false ∧
    (withS (Config.defaultTables.sBox.drop 1)).wf = false := by decide +kernel

theorem test_tables_sRange : (withS [[[16]]]).sRange = false ∧ (withS [[[16]]]).wf = false := by decide +kernel

theorem test_tables_sFirst :
    (withS Config.defaultTables.sBox.reverse).sShape = true ∧
    (withS Config.defaultTables.sBox.reverse).sFirst = false ∧
    (withS Config.defaultTables.sBox.reverse).wf = false := by decide +kernel

theorem test_canonical :
    Instr.canonical (.nop 0#8 0#64) = true ∧ Instr.canonical (.nop 1#8 0#64) = false ∧
    Instr.canonical (.rdst 0#8 1#64) = false ∧ Instr.canonical (.enc 1#8 0#64) = false ∧
    Instr.canonical (.rdout 0#8 1#64) = false ∧ Instr.canonical (.ldkey 48#8 0x1000000000000#64) = false ∧
    Instr.canonical (.exp 32#8 0x100000000#64) = false ∧ Instr.canonical (.exp 32#8 0xFFFFFFFF#64) = true :=
    by decide +kernel

/- ---- Decoding: 30_encoding.md R60, R62, words of 95_test_vectors.md ---- -/

/-- V10 row 2. -/
theorem test_decode_nop :
    decode 0x0FFFFFFFFFFFFFFFFFF#76 = .nop 255#8 0xFFFFFFFFFFFFFFFF#64 ∧
      encode (.nop 255#8 0xFFFFFFFFFFFFFFFF#64) = 0x0FFFFFFFFFFFFFFFFFF#76 := by decide +kernel

/-- R60, the worked split. -/
theorem test_decode_ldkey :
    decode 0x13000001B02EFFC7072#76 = .ldkey 0x30#8 0x00001B02EFFC7072#64 ∧
      encode (.ldkey 0x30#8 0x00001B02EFFC7072#64) = 0x13000001B02EFFC7072#76 := by decide +kernel

/-- P1. -/
theorem test_decode_ldblk :
    decode 0x240CC00CCFFF0AAF0AA#76 = .ldblk 0x40#8 0xCC00CCFFF0AAF0AA#64 ∧
      encode (.ldblk 0x40#8 0xCC00CCFFF0AAF0AA#64) = 0x240CC00CCFFF0AAF0AA#76 := by decide +kernel

/-- V10 row 11. -/
theorem test_decode_enc :
    decode 0x3630000000000000055#76 = .enc 99#8 0x55#64 ∧ encode (.enc 99#8 0x55#64) = 0x3630000000000000055#76 :=
      by decide +kernel

/-- P1. -/
theorem test_decode_rdout :
    decode 0x4000000000000000000#76 = .rdout 0#8 0#64 ∧ encode (.rdout 0#8 0#64) = 0x4000000000000000000#76 :=
      by decide +kernel

/-- V10 row 10. -/
theorem test_decode_exp :
    decode 0x520DEADBEEFF0AAF0AA#76 = .exp 32#8 0xDEADBEEFF0AAF0AA#64 ∧ encode (.exp 32#8 0xDEADBEEFF0AAF0AA#64) =
      0x520DEADBEEFF0AAF0AA#76 := by decide +kernel

/-- V6. -/
theorem test_decode_mix :
    decode 0x63000007A15557A1555#76 = .mix 48#8 0x7A15557A1555#64 ∧ encode (.mix 48#8 0x7A15557A1555#64) =
      0x63000007A15557A1555#76 := by decide +kernel

/-- P2. -/
theorem test_decode_sub :
    decode 0x7300000CA237AD9F405#76 = .sub 48#8 0xCA237AD9F405#64 ∧ encode (.sub 48#8 0xCA237AD9F405#64) =
      0x7300000CA237AD9F405#76 := by decide +kernel

/-- V3. -/
theorem test_decode_prm :
    decode 0x82000000000CE62583D#76 = .prm 32#8 0xCE62583D#64 ∧ encode (.prm 32#8 0xCE62583D#64) =
      0x82000000000CE62583D#76 := by decide +kernel

/-- V9 row 20. -/
theorem test_decode_rf :
    decode 0x9210000000000000000#76 = .rf 33#8 0#64 ∧ encode (.rf 33#8 0#64) = 0x9210000000000000000#76 :=
      by decide +kernel

/-- V10 row 4. -/
theorem test_decode_rdst :
    decode 0xA110000000000000123#76 = .rdst 17#8 0x123#64 ∧ encode (.rdst 17#8 0x123#64) =
      0xA110000000000000123#76 := by decide +kernel

/-- V9 row 21. -/
theorem test_decode_reservedB :
    decode 0xB000000000000000000#76 = .reservedB 0#8 0#64 ∧ encode (.reservedB 0#8 0#64) =
      0xB000000000000000000#76 := by decide +kernel

/-- V9 row 22. -/
theorem test_decode_reservedC :
    decode 0xC30FFFFFFFFFFFFFFFF#76 = .reservedC 48#8 0xFFFFFFFFFFFFFFFF#64 ∧
      encode (.reservedC 48#8 0xFFFFFFFFFFFFFFFF#64) = 0xC30FFFFFFFFFFFFFFFF#76 := by decide +kernel

/-- R62. -/
theorem test_decode_reservedD :
    decode 0xD010000000000000002#76 = .reservedD 1#8 2#64 ∧ encode (.reservedD 1#8 2#64) =
      0xD010000000000000002#76 := by decide +kernel

/-- R62. -/
theorem test_decode_reservedE :
    decode 0xE010000000000000002#76 = .reservedE 1#8 2#64 ∧ encode (.reservedE 1#8 2#64) =
      0xE010000000000000002#76 := by decide +kernel

/-- P3. -/
theorem test_decode_reservedF :
    decode 0xF40FFFFFFFFFFFFFFFF#76 = .reservedF 64#8 0xFFFFFFFFFFFFFFFF#64 ∧
      encode (.reservedF 64#8 0xFFFFFFFFFFFFFFFF#64) = 0xF40FFFFFFFFFFFFFFFF#76 := by decide +kernel

/-- R60: LDKEY written out bit by bit: 0001, 00110000, then the data. -/
theorem test_decode_bits :
    decode 0b0001001100000000000000000000000110110000001011101111111111000111000001110010#76 =
    .ldkey 48#8 0x1B02EFFC7072#64 := by decide +kernel

theorem test_decodeTableWord :
    decodeTableWord 80 0x3000000000000000000 = some (.enc 0#8 0#64) ∧
    decodeTableWord 76 0xA000000000000000000 = some (.rdst 0#8 0#64) ∧ decodeTableWord 80 (2 ^ 76) = none :=
    by decide +kernel

/- ---- Commands: 95_test_vectors.md ---- -/

/-- V10 row 2. -/
theorem test_nop :
    answer 0x0FFFFFFFFFFFFFFFFFF#76 State.reset = some ([0x0000000000000000000#76], 0x00#8) := by decide +kernel

/-- P5 command 6. -/
theorem test_ldkey_short :
    answer 0x128000000FFFFFFFFFF#76 loaded = some ([0xA000000000000000000#76], 0x2F#8) := by decide +kernel

/-- V10 row 12: `data[63:48]` is ignored; R154: BLOCK and OUT stay. -/
theorem test_ldkey :
    registers 0x130FFFF1B02EFFC7072#76 (st 0x123#48 0x456#64 0x789#64 0x06#8) =
      some (0x1B02EFFC7072#48, 0x456#64, 0x789#64) := by decide +kernel

/-- S6, V9 row 3. -/
theorem test_ldblk_63 :
    answer 0x23F7FFFFFFFFFFFFFFF#76 State.reset = some ([0xB000000000000000000#76], 0x38#8) := by decide +kernel

/-- P2 command 7. -/
theorem test_ldblk :
    registers 0x2400123456789ABCDEF#76 (st 0x0F1E2D3C4B5A#48 0#64 0#64 0x01#8) =
      some (0x0F1E2D3C4B5A#48, 0x0123456789ABCDEF#64, 0#64) := by decide +kernel

/-- P4 command 8, with the ignored fields of V10 row 11. -/
theorem test_enc :
    registers 0x3630000000000000055#76 (st 0x1B02EFFC7072#48 0x89ABCDEF7BEEC953#64 0x123#64 0x07#8) =
      some (0x1B02EFFC7072#48, 0x89ABCDEF7BEEC953#64, 0x7BEEC95378B82477#64) := by decide +kernel

/-- V9 row 14. -/
theorem test_enc_unloaded :
    answer 0x3000000000000000000#76 (st 0#48 0#64 0#64 0x01#8) = some ([0xE000000000000000000#76], 0x69#8) :=
      by decide +kernel

/-- P1 command 5. -/
theorem test_rdout :
    answer 0x4000000000000000000#76 loaded = some ([0x040F0AAF0AAEF4A6544#76], 0x07#8) := by decide +kernel

/-- V9 row 16. -/
theorem test_rdout_unloaded :
    answer 0x4000000000000000000#76 (st 0#48 0#64 0x123#64 0x03#8) = some ([0xE000000000000000000#76], 0x6B#8) :=
      by decide +kernel

/-- V1. -/
theorem test_exp :
    answer 0x5200000000089ABCDEF#76 State.reset = some ([0x0300000C53D57E5BF5F#76], 0x00#8) := by decide +kernel

/-- V10 row 10. -/
theorem test_exp_ignores :
    answer 0x520DEADBEEFF0AAF0AA#76 State.reset = some ([0x03000007A15557A1555#76], 0x00#8) := by decide +kernel

/-- P2 command 3. -/
theorem test_mix :
    answer 0x6300000C53D57E5BF5F#76 (st 0x0F1E2D3C4B5A#48 0#64 0#64 0x01#8) =
      some ([0x0300000CA237AD9F405#76], 0x01#8) := by decide +kernel

/-- V9 row 19: length before valid flag. -/
theorem test_mix_priority :
    answer 0x62F0000000000000000#76 State.reset = some ([0xA000000000000000000#76], 0x28#8) := by decide +kernel

/-- P2 command 4. -/
theorem test_sub :
    answer 0x7300000CA237AD9F405#76 (st 0x0F1E2D3C4B5A#48 0#64 0#64 0x01#8) =
      some ([0x02000000000CE62583D#76], 0x01#8) := by decide +kernel

/-- S2, V5: the first digit is the entry 14. -/
theorem test_sub_first_entry :
    answer 0x7300000000000000000#76 State.reset = some ([0x02000000000EFA72C4D#76], 0x00#8) := by decide +kernel

/-- P2 command 5. -/
theorem test_prm :
    answer 0x82000000000CE62583D#76 (st 0x0F1E2D3C4B5A#48 0#64 0#64 0x01#8) =
      some ([0x020000000007ACD8C34#76], 0x01#8) := by decide +kernel

/-- V4 row 1. -/
theorem test_prm_one_hot :
    answer 0x8200000000080000000#76 State.reset = some ([0x0200000000000800000#76], 0x00#8) := by decide +kernel

/-- P2 command 6. -/
theorem test_rf :
    answer 0x9200000000089ABCDEF#76 (st 0x0F1E2D3C4B5A#48 0#64 0#64 0x01#8) =
      some ([0x020000000007ACD8C34#76], 0x01#8) := by decide +kernel

/-- V9 row 20. -/
theorem test_rf_priority :
    answer 0x9210000000000000000#76 State.reset = some ([0xC000000000000000000#76], 0x48#8) := by decide +kernel

/-- V10 row 9. -/
theorem test_rdst :
    answer 0xA110000000000000123#76 (st 0#48 0#64 0#64 0x1F#8) = some ([0x008000000000000001F#76], 0x1F#8) :=
      by decide +kernel

/-- V9 row 21. -/
theorem test_reservedB :
    answer 0xB000000000000000000#76 State.reset = some ([0x9000000000000000000#76], 0x18#8) := by decide +kernel

/-- V9 row 22. -/
theorem test_reservedC :
    answer 0xC30FFFFFFFFFFFFFFFF#76 State.reset = some ([0x9000000000000000000#76], 0x18#8) := by decide +kernel

/-- R181. -/
theorem test_reservedD :
    answer 0xD300000000000000000#76 State.reset = some ([0x9000000000000000000#76], 0x18#8) := by decide +kernel

/-- R181. -/
theorem test_reservedE :
    answer 0xE200000000000000000#76 State.reset = some ([0x9000000000000000000#76], 0x18#8) := by decide +kernel

/-- V9 row 23. -/
theorem test_reservedF :
    answer 0xF000000000000000000#76 (st 0#48 0#64 0#64 0x03#8) = some ([0x9000000000000000000#76], 0x1B#8) :=
      by decide +kernel

/-- R188. -/
theorem test_reservedF_keeps :
    registers 0xF40FFFFFFFFFFFFFFFF#76 loaded =
      some (0x1B02EFFC7072#48, 0xCC00CCFFF0AAF0AA#64, 0xF0AAF0AAEF4A6544#64) := by decide +kernel

/- ---- The step: R61, R210 ---- -/

/-- R210: STATUS to 0, no response. -/
theorem test_step_reset :
    (nextOf (step { loaded with host := [.reset] })).map (fun t => (t.status, t.responses, t.host)) =
    some (0x00#8, [], []) := by decide +kernel

theorem test_step_command :
    (nextOf (step { loaded with host := [.command 0x4000000000000000000#76, .reset] })).map
      (fun t => (t.responses, t.host)) = some ([0x040F0AAF0AAEF4A6544#76], [.reset]) := by decide +kernel

/-- V10 row 3. -/
theorem test_step_fetched :
    (nextOf (step (State.reset.withFetchWord 80 0xA000000000000000000))).map (fun t => t.responses) =
    some [0x0080000000000000000#76] := by decide +kernel

/-- R68 on two words of V9 and V1. -/
theorem test_lsb_of_answer :
    rspErr 0xB000000000000000000#76 = true ∧ rspCause 0xB000000000000000000#76 = 3#3 ∧
    rspLen 0x03000007A15557A1555#76 = 48#8 ∧ rspData 0x03000007A15557A1555#76 = 0x7A15557A1555#64 := by decide +kernel

/- ---- Layer F: V6, S2, S6, R110, walks W1 and W2 of V7 ---- -/

theorem test_xor :
    LayerF.xor [true, true, false, false] [true, false, true, false] = .ok [false, true, true, false] ∧
    LayerF.xor [true, true, false, false] [true, false, true] = .error .lengthError ∧ LayerF.xor [] [] = .ok [] :=
    by decide +kernel

theorem test_toDecimal :
    LayerF.toDecimal [true, false, false, true, true, false] = 38 ∧ LayerF.toDecimal [true, true, false, true] =
      13 ∧ LayerF.toDecimal [] = 0 := by decide +kernel

theorem test_toBinary :
    LayerF.toBinary 14 4 = .ok [true, true, true, false] ∧ LayerF.toBinary 5 4 = .ok [false, true, false, true] ∧
    LayerF.toBinary 16 4 = .error .outsideDomain := by decide +kernel

theorem test_permute :
    LayerF.permute [true, false, true, true] [2, 2, 4, 1] = .ok [false, false, true, true] ∧
    LayerF.permute [true, false, true, true] [5] = .error .lengthError ∧
    LayerF.permute [true, false, true, true, false, false] [2, 2, 4, 1] = .ok [false, false, true, true] :=
    by decide +kernel

/-- S2: the one entry FN states. -/
theorem test_sboxLookup :
    LayerF.sboxLookup Config.defaultTables 0 (List.replicate 6 false) = .ok [true, true, true, false] ∧
    LayerF.sboxLookup Config.defaultTables 0 (List.replicate 5 false) = .error .lengthError := by decide +kernel

/-- W1: rows and columns. -/
theorem test_substitute_groups :
    ((List.range 8).map fun g => LayerF.row (LayerF.group (LayerF.ofReg 0xCA237AD9F405#48) g)) =
      [2, 2, 1, 2, 2, 1, 0, 1] ∧
    ((List.range 8).map fun g => LayerF.col (LayerF.group (LayerF.ofReg 0xCA237AD9F405#48) g)) =
      [9, 1, 6, 13, 11, 15, 8, 2] := by decide +kernel

/-- R110. -/
theorem test_inverse_table :
    ((List.range 32).map fun j => Config.defaultTables.pTable.idxOf (j + 1) + 1) =
    [9, 17, 23, 31, 13, 28, 2, 18, 24, 16, 30, 6, 26, 20, 10, 1] ++
      [8, 14, 25, 3, 4, 29, 11, 19, 32, 12, 22, 7, 5, 27, 15, 21] := by decide +kernel

/-- W2. -/
theorem test_roundFunction :
    LayerF.roundFunction Config.defaultTables (LayerF.ofReg 0xF0AAF0AA#32) (LayerF.ofReg 0x1B02EFFC7072#48) =
    .ok (LayerF.ofReg 0x234AA9BB#32) := by decide +kernel

/-- S6. -/
theorem test_encryptOneRound_lengths :
    LayerF.encryptOneRound Config.defaultTables (List.replicate 63 true) (List.replicate 48 true) =
      .error .lengthError ∧
    LayerF.encryptOneRound Config.defaultTables (List.replicate 65 true) (List.replicate 48 true) =
      .error .lengthError := by decide +kernel

/- ---- Assembler: 30_encoding.md section 6, P6, V9 ---- -/

/-- R70: the bare form and a comment. -/
theorem test_asm_plain :
    assembleText
      ['E', 'N', 'C', ' ', ';', ' ', 'o', 'n', 'e', ' ', 'r', 'o', 'u', 'n', 'd'] =
    .ok [0x3000000000000000000#76] := by decide +kernel

/-- V9 row 3: the length is not compared with the needed one. -/
theorem test_asm_sized :
    assembleText
      ['L', 'D', 'B', 'L', 'K', ' ', '6', '3', '\'', 'h', '7', 'F', 'F', 'F', 'F', 'F', 'F', 'F', 'F', 'F',
       'F', 'F', 'F', 'F', 'F', 'F'] =
    .ok [0x23F7FFFFFFFFFFFFFFF#76] := by decide +kernel

/-- R70: `n'bB`. -/
theorem test_asm_binary :
    assembleText
      ['E', 'X', 'P', ' ', '3', '\'', 'b', '1', '0', '1'] =
    .ok [0x5030000000000000005#76] := by decide +kernel

/-- V10 row 4. -/
theorem test_asm_explicit :
    assembleText
      ['R', 'D', 'S', 'T', ' ', '1', '7', ',', ' ', '0', 'x', '1', '2', '3'] =
    .ok [0xA110000000000000123#76] := by decide +kernel

/-- V9 row 22. -/
theorem test_asm_word :
    assembleText
      ['.', 'w', 'o', 'r', 'd', ' ', '0', 'x', 'C', '3', '0', 'F', 'F', 'F', 'F', 'F', 'F', 'F', 'F', 'F',
       'F', 'F', 'F', 'F', 'F', 'F', 'F'] =
    .ok [0xC30FFFFFFFFFFFFFFFF#76] := by decide +kernel

/-- P6 line 1. -/
theorem test_asm_encrypt :
    assembleText
      ['E', 'N', 'C', 'R', 'Y', 'P', 'T', ' ', '6', '4', '\'', 'h', 'C', 'C', '0', '0', 'C', 'C', 'F', 'F',
       'F', '0', 'A', 'A', 'F', '0', 'A', 'A', ',', ' ', '4', '8', '\'', 'h', '1', 'B', '0', '2', 'E', 'F',
       'F', 'C', '7', '0', '7', '2'] =
    .ok [0x240CC00CCFFF0AAF0AA#76, 0x13000001B02EFFC7072#76, 0x3000000000000000000#76] := by decide +kernel

/-- P6 line 2. -/
theorem test_asm_roundf :
    assembleText
      ['R', 'O', 'U', 'N', 'D', 'F', ' ', '3', '2', '\'', 'h', 'F', '0', 'A', 'A', 'F', '0', 'A', 'A', ',',
       ' ', '4', '8', '\'', 'h', '1', 'B', '0', '2', 'E', 'F', 'F', 'C', '7', '0', '7', '2'] =
    .ok [0x13000001B02EFFC7072#76, 0x92000000000F0AAF0AA#76] := by decide +kernel

/-- P6 line 3. -/
theorem test_asm_xor48 :
    assembleText
      ['X', 'O', 'R', '4', '8', ' ', '4', '8', '\'', 'h', '7', 'A', '1', '5', '5', '5', '7', 'A', '1', '5',
       '5', '5', ',', ' ', '4', '8', '\'', 'h', '1', 'B', '0', '2', 'E', 'F', 'F', 'C', '7', '0', '7', '2'] =
    .ok [0x13000001B02EFFC7072#76, 0x63000007A15557A1555#76] := by decide +kernel

/-- R70: the bounds of each form, one beyond. -/
theorem test_asm_refused :
    assemble (.plain .ldkey) = .error .needsOperand ∧ assemble (.sized .enc (.hex 4 1)) = .error .takesNoOperand ∧
    assemble (.sized .exp (.hex 65 0)) = .error .operandTooLong ∧
    assemble (.sized .exp (.hex 4 16)) = .error .valueTooWide ∧
    assemble (.explicit .exp 256 0) = .error .lenTooLarge ∧
    assemble (.explicit .exp 0 (2 ^ 64)) = .error .dataTooLarge ∧
    assemble (.word (2 ^ 76)) = .error .wordTooLarge ∧ assembleText ['?'] = .error .syntaxError := by decide +kernel
/- ---- Inputs that meet the hypotheses of the statements, clause by clause, at the ends of their ranges ---- -/

/-- All sixteen opcodes; the clauses exclude one another. -/
theorem test_hyp_OpcodeSelectsTheCommand :
    ∀ op : BitVec 4, (makeWord op 0xFF#8 0#64).extractLsb' 72 4 = op := by decide +kernel

theorem test_hyp_NumbersBeyondAWordAreRejected :
    2 ^ 76 ≤ 2 ^ 76 ∧ decodeNumber (2 ^ 76) = .error .notACommandWord ∧
      decodeNumber (2 ^ 76 - 1) = .ok (.reservedF 0xFF#8 0xFFFFFFFFFFFFFFFF#64) := by decide +kernel

theorem test_hyp_FormatNIgnoresItsFields :
    ∀ m ∈ [Mnemonic.nop, .enc, .rdout, .rdst], m.isV = false := by decide

theorem test_hyp_OperandIsTheLowDataBits :
    64 ≤ 64 ∧ 63 < 64 ∧ (∀ j < 48, (0#64).getLsbD j = (0xFFFF000000000000#64).getLsbD j) ∧
      (∀ j < 32, (0#64).getLsbD j = (0xFFFFFFFF00000000#64).getLsbD j) := by decide +kernel

/-- One below and one above each needed length, and a length above 64. -/
theorem test_hyp_WrongLengthIsALengthFault :
    47#8 ≠ 48#8 ∧ 49#8 ≠ 48#8 ∧ 63#8 ≠ 64#8 ∧ 65#8 ≠ 64#8 ∧ 31#8 ≠ 32#8 ∧ 33#8 ≠ 32#8 ∧
      neededLength (.ldblk 65#8 0#64) = some 64 ∧ 64 < (Instr.ldblk 65#8 0#64).len.toNat ∧
      neededLength (.sub 255#8 0#64) = some 48 ∧ 64 < (Instr.sub 255#8 0#64).len.toNat := by decide

theorem test_hyp_ReservedOpcodesRaiseIllegalOp :
    0xB ≤ (wordOp 0xB000000000000000000#76).toNat ∧ 0xB ≤ (wordOp 0xFFFFFFFFFFFFFFFFFFF#76).toNat ∧
      ¬ 0xB ≤ (wordOp 0xAFFFFFFFFFFFFFFFFFF#76).toNat := by decide

/-- A faulting and a succeeding command, for the two clauses about the response. -/
theorem test_hyp_ResponseWordFields :
    exec (.rf 31#8 0#64) loaded = .next (loaded.raiseFault .lenHalf) ∧
      (loaded.raiseFault .lenHalf).responses = loaded.responses ++ [0xC000000000000000000#76] ∧
      (0xC000000000000000000#76).getLsbD 75 = true ∧
      exec (.nop 0#8 0#64) loaded = .next (loaded.answer 0#76) ∧
      (0#76).getLsbD 75 = false := ⟨rfl, by decide, by decide, rfl, by decide⟩

theorem test_hyp_StepRunsTheDecodedCommand :
    (State.reset.withFetchWord 76 0x3000000000000000000).host = .command 0x3000000000000000000#76 :: [] := by
  decide

theorem test_hyp_StepOfResetAndOfNoMove :
    ({ loaded with host := [.reset] } : State).host = .reset :: [] ∧ State.reset.host = [] := by decide

theorem test_hyp_FirstFailingCheckIsTheCause :
    firstFault (.reservedB 0#8 0#64) State.reset = some .illegalOp ∧
      firstFault (.mix 47#8 0#64) State.reset = some .lenXor ∧
      firstFault (.enc 0#8 0#64) State.reset = some .notLoaded ∧
      firstFault (.enc 0#8 0#64) loaded = none ∧ firstFault (.exp 32#8 0#64) State.reset = none := by decide

theorem test_hyp_EveryCommandAnswers : rspErr (faultWord .notLoaded) = true := by decide

theorem test_hyp_AssemblerForms :
    Mnemonic.ldblk.isV = true ∧ 64 ≤ 64 ∧ 0xFFFFFFFFFFFFFFFF < 2 ^ 64 ∧ 0 < 2 ^ 0 ∧
      (List.replicate 64 true).length ≤ 64 ∧ 255 ≤ 255 ∧ 2 ^ 76 - 1 < 2 ^ 76 ∧ ';' ∉ ['N', 'O', 'P', ' '] := by
  decide

theorem test_hyp_ValidFlagsOnlyRise :
    exec (.ldkey 47#8 0#64) loaded = .next (loaded.raiseFault .lenXor) ∧ loaded.kv = true ∧ loaded.bv = true ∧
      loaded.ov = true ∧ (loaded.raiseFault .lenXor).responses = loaded.responses ++ [faultWord .lenXor] ∧
      rspErr (faultWord .lenXor) = true := ⟨rfl, by decide⟩

/-- A fault over an earlier fault, then a success after it; and a state with no fault and CAUSE 0. -/
theorem test_hyp_FaultRecordIsSticky :
    exec (.ldkey 47#8 0#64) (loaded.raiseFault .illegalOp) =
        .next ((loaded.raiseFault .illegalOp).raiseFault .lenXor) ∧
      (loaded.raiseFault .illegalOp).err = true ∧
      ((loaded.raiseFault .illegalOp).raiseFault .lenXor).responses =
        (loaded.raiseFault .illegalOp).responses ++ [faultWord .lenXor] ∧ rspErr (faultWord .lenXor) = true ∧
      exec (.nop 0#8 0#64) loaded = .next (loaded.answer 0#76) ∧
      (loaded.answer 0#76).responses = loaded.responses ++ [0#76] ∧ rspErr 0#76 = false ∧
      loaded.err = false ∧ loaded.cause = 0#3 ∧ (loaded.answer 0#76).err = false :=
  ⟨rfl, by decide, by decide, by decide, rfl, by decide⟩

/-- A command that changes each of the three registers. -/
theorem test_hyp_EachRegisterHasOneWriter :
    registers 0x1300000000000000001#76 loaded = some (1#48, loaded.block, loaded.out) ∧ loaded.key ≠ 1#48 ∧
      registers 0x2400000000000000001#76 loaded = some (loaded.key, 1#64, loaded.out) ∧ loaded.block ≠ 1#64 ∧
      registers 0x3000000000000000000#76 (st 0x1B02EFFC7072#48 0xCC00CCFFF0AAF0AA#64 5#64 0x03#8) =
        some (0x1B02EFFC7072#48, 0xCC00CCFFF0AAF0AA#64, 0xF0AAF0AAEF4A6544#64) := by decide +kernel

theorem test_hyp_ResetLeavesRegistersUnreadable :
    State.reset = State.reset ∧ ∃ u : State, loaded.hostReset = u.hostReset := ⟨rfl, loaded, rfl⟩

theorem test_hyp_StepKeepsTheInvariant :
    ({ loaded with host := [.reset] } : State).Inv ∧
      step { loaded with host := [.reset] } = .next ({ loaded with host := [] } : State).hostReset :=
  ⟨⟨by decide, by simp [loaded, st]⟩, rfl⟩

/-- Two states that differ in a key that is not loaded. -/
theorem test_hyp_UnloadedContentsAreUnobservable :
    (st 1#48 7#64 3#64 0x02#8).AgreeOnLoaded (st 2#48 7#64 4#64 0x02#8) ∧
      st 1#48 7#64 3#64 0x02#8 ≠ st 2#48 7#64 4#64 0x02#8 := by decide

theorem test_hyp_HostBytesAreBigEndian :
    [0x01#8, 0x80#8][1]? = some 0x80#8 ∧ 7 < 8 ∧ (List.replicate 8 0x5A#8).length = 8 ∧
      (List.replicate 6 0x5A#8).length = 6 := by decide

theorem test_hyp_SboxRomReads :
    LayerF.romS Config.tables.val 7 3 15 = some 11 ∧ LayerF.romSFlat Config.tables.val 511#9 = some 11 := by
  decide +kernel

theorem test_hyp_XorOfVectors :
    [true].length ≠ ([] : Bits).length ∧ [true].length = [false].length ∧ [true][0]? = some true := by decide

theorem test_hyp_XorLaws :
    [true, false].length = [false, false].length ∧ [false, false].length = [true, true].length := by decide

theorem test_hyp_DecimalIsMostSignificantFirst : (List.replicate 6 true).length = 6 := by decide

theorem test_hyp_BinaryInvertsDecimal : 15 < 2 ^ 4 ∧ 0 < 2 ^ 0 ∧ 2 ^ 4 ≤ 16 ∧ 2 ^ 0 ≤ 1 ∧ 3 < 4 := by decide

/-- A table that the vector is too short for, one it is just long enough for, and the empty one. -/
theorem test_hyp_PermuteSelectsByIndex :
    (∀ i ∈ [2, 3], 1 ≤ i) ∧ (∃ i ∈ [2, 3], [true, false].length < i) ∧
      (∀ i ∈ [2, 3], i ≤ [true, false, true].length) ∧ [2, 3][1]? = some 3 ∧ (∀ i ∈ ([] : List Nat), 1 ≤ i) := by
  decide

theorem test_hyp_UnitsTakeExactly32Bits :
    (List.replicate 31 true).length ≠ 32 ∧ (List.replicate 32 true).length = 32 ∧
      32 < (List.replicate 33 true).length := by decide

theorem test_hyp_PermuteIsLinear :
    [true, false].length = [true, true].length ∧ ∀ i ∈ [2, 1, 2], 1 ≤ i ∧ i ≤ [true, false].length := by decide

theorem test_hyp_OutputPermutationIsABijection :
    (LayerF.ofReg 0x80000000#32).length = 32 ∧
      LayerF.finalPermute Config.tables.val (LayerF.ofReg 0x80000000#32) = .ok (LayerF.ofReg 0x00800000#32) := by
  decide +kernel

theorem test_hyp_ExpanderGroupsAreNibblesWithNeighbours :
    (LayerF.ofReg 0x80000000#32).length = 32 ∧ 7 < 8 ∧ 5 < 6 := by decide

theorem test_hyp_SubstituteLooksUpEachGroup :
    (LayerF.ofReg 0#32).length ≠ 48 ∧ (LayerF.ofReg 0xCA237AD9F405#48).length = 48 ∧ 7 < 8 ∧
      ((LayerF.ofReg 0xCA237AD9F405#48).drop (6 * 7)).take 6 = [false, false, false, true, false, true] := by
  decide +kernel

/-- Two vectors with one group 0 in common. -/
theorem test_hyp_LanesAreIndependent :
    LayerF.substitute Config.tables.val (LayerF.ofReg 0#48) = .ok (LayerF.ofReg 0xEFA72C4D#32) ∧
      (∃ y, LayerF.substitute Config.tables.val (LayerF.ofReg 1#48) = .ok y) ∧
      LayerF.group (LayerF.ofReg 0#48) 0 = LayerF.group (LayerF.ofReg 1#48) 0 := by
  refine ⟨by decide +kernel, ?_, by decide +kernel⟩
  obtain ⟨y, h, -⟩ := LayerF.substitute_ok Config.tables (m := LayerF.ofReg 1#48) (by decide)
  exact ⟨y, h⟩

theorem test_hyp_SubstituteIsOnto :
    LayerF.romS Config.defaultTables 7 3 15 = some 11 ∧ (LayerF.ofReg 0xCE62583D#32).length = 32 := by
  decide +kernel

theorem test_hyp_RoundFunctionIsFourSteps :
    (LayerF.ofReg 0#31).length ≠ 32 ∧ (LayerF.ofReg 0#32).length = 32 ∧ (LayerF.ofReg 0#47).length ≠ 48 ∧
      (LayerF.ofReg 0#48).length = 48 := by decide +kernel

/-- Two half blocks and two keys with one mixed vector (V7, rows 3 and 4). -/
theorem test_hyp_RoundFunctionDependsOnTheMix :
    LayerF.expand Config.tables.val (LayerF.ofReg 0#32) = .ok (LayerF.ofReg 0#48) ∧
      LayerF.expand Config.tables.val (LayerF.ofReg 0xFFFFFFFF#32) = .ok (LayerF.ofReg 0xFFFFFFFFFFFF#48) ∧
      LayerF.xor (LayerF.ofReg 0#48) (LayerF.ofReg 0#48) = .ok (LayerF.ofReg 0#48) ∧
      LayerF.xor (LayerF.ofReg 0xFFFFFFFFFFFF#48) (LayerF.ofReg 0xFFFFFFFFFFFF#48) = .ok (LayerF.ofReg 0#48) := by
  decide +kernel

theorem test_hyp_OneRoundSwapsAndMixes :
    (LayerF.ofReg 0xCC00CCFFF0AAF0AA#64).length = 64 ∧ (LayerF.ofReg 0x1B02EFFC7072#48).length = 48 := by
  decide +kernel

theorem test_hyp_OneRoundRejectsOtherLengths :
    (LayerF.ofReg 0#63).length = 63 ∧ (LayerF.ofReg 0#65).length = 65 ∧ (LayerF.ofReg 0#64).length = 64 ∧
      (LayerF.ofReg 0#47).length ≠ 48 := by decide +kernel

theorem test_hyp_OneRoundUndoesItselfUpToSwap :
    (LayerF.ofReg 0x0123456789ABCDEF#64).length = 64 ∧ (LayerF.ofReg 0#48).length = 48 := by decide +kernel

/-- A state that keeps the invariant, and one with a fault recorded before a command. -/
theorem test_hyp_RdstAnswersStatus :
    loaded.StatusOk ∧ exec (.nop 0#8 0#64) (loaded.raiseFault .lenBlock) =
        .next ((loaded.raiseFault .lenBlock).answer 0#76) ∧
      (loaded.raiseFault .lenBlock).err = true ∧ (loaded.raiseFault .lenBlock).cause ≠ 0#3 :=
  ⟨by decide, rfl, by decide, by decide⟩

theorem test_hyp_LdkeyReplacesTheKey :
    47#8 ≠ 48#8 ∧ (st 0#48 0#64 0#64 0x01#8).key = 0#48 ∧ (st 0#48 0#64 0#64 0x01#8).kv = true := by decide

theorem test_hyp_LdblkReplacesTheBlock : 63#8 ≠ 64#8 ∧ 65#8 ≠ 64#8 := by decide

theorem test_hyp_EncPerformsOneRound :
    loaded.bv = true ∧ loaded.kv = true ∧ loaded.block = 0xCC00CCFFF0AAF0AA#64 ∧
      loaded.key = 0x1B02EFFC7072#48 ∧ State.reset.bv = false ∧ (st 0#48 0#64 0#64 0x01#8).bv = false ∧
      (st 0#48 0#64 0#64 0x02#8).kv = false := by decide

theorem test_hyp_RdoutAnswersOut :
    loaded.ov = true ∧ loaded.out = 0xF0AAF0AAEF4A6544#64 ∧ (st 0#48 0#64 0#64 0x03#8).ov = false := by decide

theorem test_hyp_MixXorsTheKey :
    loaded.kv = true ∧ loaded.key = 0x1B02EFFC7072#48 ∧ State.reset.kv = false ∧ 49#8 ≠ 48#8 ∧
      (0#64).extractLsb' 0 48 = 0#48 ∧ (0x1B02EFFC7072#64).extractLsb' 0 48 = loaded.key := by decide

theorem test_hyp_ExpAnswersTheExpansion :
    1 ≤ 48 ∧ 48 ≤ 48 ∧ (0xFFFFFFFF00000000#64).extractLsb' 0 32 = 0#32 ∧
      (0xFFFFFFFF#64).extractLsb' 0 32 = BitVec.allOnes 32 ∧ 31#8 ≠ 32#8 := by decide

theorem test_hyp_PrmAnswersThePermutation :
    1 ≤ 32 ∧ 32 ≤ 32 ∧ (0#64).extractLsb' 0 32 = 0#32 ∧
      (0xFFFFFFFF#64).extractLsb' 0 32 = BitVec.allOnes 32 ∧ 33#8 ≠ 32#8 := by decide

theorem test_hyp_SubAnswersTheSubstitution :
    7 < 8 ∧ (0#64).extractLsb' 0 48 = 0#48 ∧ (0xFFFFFFFFFFFF#64).extractLsb' 0 48 = BitVec.allOnes 48 ∧
      32#8 ≠ 48#8 := by decide

/-- V7, rows 3 to 5. -/
theorem test_hyp_RfAnswersTheRoundFunction :
    (st 0#48 0#64 0#64 0x01#8).kv = true ∧ (0#64).extractLsb' 0 32 = 0#32 ∧ (st 0#48 0#64 0#64 0x01#8).key = 0#48 ∧
      (0xFFFFFFFF#64).extractLsb' 0 32 = BitVec.allOnes 32 ∧
      (st 0xFFFFFFFFFFFF#48 0#64 0#64 0x01#8).key = BitVec.allOnes 48 ∧
      (st 0xFFFFFFFFFFFF#48 0#64 0#64 0x01#8).kv = true ∧ State.reset.kv = false ∧ 64#8 ≠ 32#8 ∧
      loaded.kv = true ∧ loaded.key = 0x1B02EFFC7072#48 := by decide

theorem test_hyp_StageCommandsComposeToRf : loaded.kv = true := by decide

theorem test_hyp_UnloadedRegisterIsAFault :
    (st 0#48 0#64 0#64 0x02#8).kv = false ∧ (st 0#48 0#64 0#64 0x01#8).bv = false ∧
      (st 0#48 0#64 0#64 0x03#8).ov = false := by decide

theorem test_hyp_FaultEntryRecordsAndAnswers :
    exec (.prm 33#8 0#64) loaded = .next (loaded.raiseFault .lenStage) ∧
      (loaded.raiseFault .lenStage).responses = loaded.responses ++ [0xD000000000000000000#76] ∧
      (0xD000000000000000000#76).getLsbD 75 = true ∧
      exec (.nop 0#8 0#64) loaded = .next (loaded.answer 0#76) ∧
      (∀ (len : BitVec 8) (data : BitVec 64), Instr.nop 0#8 0#64 ≠ .rdst len data) ∧
      rspErr 0xD000000000000000000#76 = true ∧ rspErr 0#76 = false :=
  ⟨rfl, by decide, by decide, rfl, by simp, by decide, by decide⟩

theorem test_hyp_FailedLoadLeavesStaleRegisters :
    loaded.kv = true ∧ loaded.bv = true ∧ 40#8 ≠ 48#8 ∧ 63#8 ≠ 64#8 := by decide

theorem test_hyp_BootSequenceSuffices : State.reset.status = 0#8 ∧ loaded.hostReset.status = 0#8 := by decide

end Sys2Proof.Tests
end

section
/-! What a command that went on can have done, and what each update of the state does to the valid flags KV, BV and OV
(10_state.md R26). -/

namespace Sys2Proof.Machine

/-- The inversion of `exec_effect`: the state a command goes on in was reached by one of its effects. -/
theorem CommandEffect.of_exec {i : Instr} {s t : State} (h : exec i s = .next t) : CommandEffect s i t := by
  obtain ⟨u, hu, effect⟩ := exec_effect i s
  obtain rfl : u = t := by simpa [hu] using h
  exact effect

@[simp] theorem State.answer_kv (w : ResponseWord) (s : State) : (s.answer w).kv = s.kv := rfl
@[simp] theorem State.answer_bv (w : ResponseWord) (s : State) : (s.answer w).bv = s.bv := rfl
@[simp] theorem State.answer_ov (w : ResponseWord) (s : State) : (s.answer w).ov = s.ov := rfl

@[simp] theorem State.loadKey_kv (k : BitVec 48) (s : State) : (s.loadKey k).kv = true := by simp [State.kv]
@[simp] theorem State.loadKey_bv (k : BitVec 48) (s : State) : (s.loadKey k).bv = s.bv := by simp [State.bv]
@[simp] theorem State.loadKey_ov (k : BitVec 48) (s : State) : (s.loadKey k).ov = s.ov := by simp [State.ov]

@[simp] theorem State.loadBlock_kv (b : BitVec 64) (s : State) : (s.loadBlock b).kv = s.kv := by simp [State.kv]
@[simp] theorem State.loadBlock_bv (b : BitVec 64) (s : State) : (s.loadBlock b).bv = true := by simp [State.bv]
@[simp] theorem State.loadBlock_ov (b : BitVec 64) (s : State) : (s.loadBlock b).ov = s.ov := by simp [State.ov]

@[simp] theorem State.writeOut_kv (y : BitVec 64) (s : State) : (s.writeOut y).kv = s.kv := by simp [State.kv]
@[simp] theorem State.writeOut_bv (y : BitVec 64) (s : State) : (s.writeOut y).bv = s.bv := by simp [State.bv]
@[simp] theorem State.writeOut_ov (y : BitVec 64) (s : State) : (s.writeOut y).ov = true := by simp [State.ov]

@[simp] theorem State.hostReset_kv (s : State) : s.hostReset.kv = false := by simp [State.kv, statusKV]
@[simp] theorem State.hostReset_bv (s : State) : s.hostReset.bv = false := by simp [State.bv, statusBV]
@[simp] theorem State.hostReset_ov (s : State) : s.hostReset.ov = false := by simp [State.ov, statusOV]

/-- A response with err 1 comes of a fault entry alone (R68, R188). -/
theorem CommandEffect.eq_raiseFault {i : Instr} {s t : State} {w : ResponseWord} (h : CommandEffect s i t)
    (hw : t.responses = s.responses ++ [w]) (herr : rspErr w = true) :
    ∃ c, firstFault i s = some c ∧ c ≠ .none ∧ t = s.raiseFault c := by
  have not_ok (len : BitVec 8) (data : BitVec 64) : okWord len data ≠ w := by
    rintro rfl
    simp [okWord_fields] at herr
  cases h with
  | fault _ c hc hne => exact ⟨c, hc, hne, rfl⟩
  | answer _ len data => exact absurd (by simpa using hw) (not_ok len data)
  | ldkey => exact absurd (by simpa [zero_ok] using hw) (not_ok 0#8 0#64)
  | ldblk => exact absurd (by simpa [zero_ok] using hw) (not_ok 0#8 0#64)
  | enc _ _ y => exact absurd (by simpa using hw) (not_ok 64#8 y)

/-- R26: no effect of a command takes a valid flag back to 0. -/
theorem CommandEffect.flags_rise {i : Instr} {s t : State} (h : CommandEffect s i t) :
    (s.kv = true → t.kv = true) ∧ (s.bv = true → t.bv = true) ∧ (s.ov = true → t.ov = true) := by
  cases h <;> simp

/-- Settles O17: the flags rise by the inversion of a command's effect, and a response with err 1 is a fault entry,
which keeps them. -/
theorem validFlagsOnlyRise : Obligations.ValidFlagsOnlyRise := by
  refine ⟨fun i s t h => ?_, fun s => by simp, fun s data => ⟨?_, ?_⟩⟩
  · have effect := CommandEffect.of_exec h
    obtain ⟨hkv, hbv, hov⟩ := effect.flags_rise
    refine ⟨hkv, hbv, hov, fun w hw herr => ?_⟩
    obtain ⟨c, -, -, rfl⟩ := effect.eq_raiseFault hw herr
    simp
  · exact ⟨_, ldkey_good data s, by simp⟩
  · exact ⟨_, ldblk_good data s, by simp⟩

end Sys2Proof.Machine
end

section
/-! The notation of 20_memory.md over the state: bytes kept by a host (R46) and the flat address of an S-ROM entry
(R43). -/

namespace Sys2Proof.LayerF

theorem ofBytes_cons (b : BitVec 8) (bytes : List (BitVec 8)) : ofBytes (b :: bytes) = ofReg b ++ ofBytes bytes := rfl

@[simp] theorem ofBytes_length (bytes : List (BitVec 8)) : (ofBytes bytes).length = 8 * bytes.length := by
  induction bytes with
  | nil => rfl
  | cons b bytes ih =>
    rw [ofBytes_cons, List.length_append, ofReg_length, ih, List.length_cons]
    omega

/-- Byte 0 holds the first eight positions; the bytes after it stand eight positions further on. -/
theorem ofBytes_get {bytes : List (BitVec 8)} {j k : Nat} {b : BitVec 8} (hj : bytes[j]? = some b) (hk : k < 8) :
    (ofBytes bytes)[8 * j + k]? = some (b.getLsbD (7 - k)) := by
  induction bytes generalizing j with
  | nil => simp at hj
  | cons a bytes ih =>
    rw [ofBytes_cons]
    cases j with
    | zero =>
      obtain rfl : a = b := by simpa using hj
      rw [Nat.mul_zero, Nat.zero_add, List.getElem?_append_left (by simpa using hk), ofReg_get _ _ hk]
    | succ j =>
      have hpos : 8 * (j + 1) + k - (ofReg a).length = 8 * j + k := by rw [ofReg_length]; omega
      rw [List.getElem?_append_right (by rw [ofReg_length]; omega), hpos]
      exact ih (by simpa using hj)

/-- Settles O24, from the length and the position of a byte's bit in the vector. -/
theorem hostBytesAreBigEndian : Obligations.HostBytesAreBigEndian := by
  intro bytes
  exact ⟨ofBytes_length bytes, fun _ _ _ => ofBytes_get, fun h => by simp [h], fun h => by simp [h]⟩

section
variable {g row col : Nat} (hg : g < 8) (hr : row < 4) (hc : col < 16)
include hg hr hc

/-- A flat address in range fits in nine bits. -/
theorem sRomAddress_toNat : (sRomAddress g row col).toNat = g * 64 + row * 16 + col :=
  Nat.mod_eq_of_lt (by omega)

/-- The three fields of a flat address are the coordinates it was made of: each is a digit of the number. -/
theorem sRomAddress_fields :
    ((sRomAddress g row col).extractLsb' 6 3).toNat = g ∧ ((sRomAddress g row col).extractLsb' 4 2).toNat = row ∧
      ((sRomAddress g row col).extractLsb' 0 4).toNat = col := by
  simp only [BitVec.extractLsb'_toNat, sRomAddress_toNat hg hr hc, Nat.shiftRight_eq_div_pow]
  refine ⟨?_, ?_, ?_⟩ <;> omega

theorem romSFlat_sRomAddress (T : Config.Tables) : romSFlat T (sRomAddress g row col) = romS T g row col := by
  obtain ⟨h1, h2, h3⟩ := sRomAddress_fields hg hr hc
  rw [romSFlat, h1, h2, h3]

end

/-- Settles O25: the tables' shape gives the entry, the address's fields give the read by flat address. -/
theorem sboxRomReads : Obligations.SboxRomReads := by
  intro T g row col hg hr hc
  obtain ⟨e, he, hle⟩ := romS_ok T hg hr hc
  obtain ⟨hg', hr', hc'⟩ := sRomAddress_fields hg hr hc
  exact ⟨⟨e, he, hle, he⟩, sRomAddress_toNat hg hr hc, hg', hr', hc', romSFlat_sRomAddress hg hr hc T.val⟩

end Sys2Proof.LayerF
end

section
/-! The command word (30_encoding.md R60, R62, R66): its fields name the decoded command, and format N carries none that
matters. -/

namespace Sys2Proof

/-- R62: the decoded command is the one command whose opcode, length and data are the word's fields. -/
theorem decode_eq_of_fields {w : CommandWord} {i : Instr} (hop : wordOp w = i.op) (hlen : wordLen w = i.len)
    (hdata : wordData w = i.data) : decode w = i := by
  cases i <;> rw [decode, hop, hlen, hdata] <;> rfl

/-- Settles O2: each clause names the opcode of its command, and the command's other two fields are the word's own. -/
theorem opcodeSelectsTheCommand : Obligations.OpcodeSelectsTheCommand := by
  refine ⟨fun w => ?_, decode_eq_of_fields (by decide) (by decide) (by decide)⟩
  and_intros <;> exact fun hop => decode_eq_of_fields hop rfl rfl

theorem assemble_plain {m : Mnemonic} (h : m.isV = false) : assemble (.plain m) = .ok [makeWord m.op 0#8 0#64] := by
  simp [assemble, h]

/-- Settles O5: the meanings of the four commands do not name the two fields, and the bare form makes its word with
zeros. -/
theorem formatNIgnoresItsFields : Obligations.FormatNIgnoresItsFields :=
  ⟨fun _ _ _ _ _ => ⟨rfl, rfl, rfl, rfl⟩, fun m hm => ⟨_, assemble_plain hm, makeWord_fields m.op 0#8 0#64⟩⟩

end Sys2Proof
end

section
/-! The operand of a command of format V and its declared length (30_encoding.md R63 to R65). -/

namespace Sys2Proof.LayerF

/-- R65: element `p` of the operand of length `n` is data bit `n-1-p`. -/
theorem take_get {n p : Nat} (data : BitVec 64) (hp : p < n) :
    (take n data)[p]? = some (data.getLsbD (n - 1 - p)) := by
  have hbit : n - 1 - p < n := by omega
  rw [take_eq_ofReg, ofReg_get _ _ hp, BitVec.getLsbD_extractLsb', Nat.zero_add]
  simp [hbit]

end Sys2Proof.LayerF

namespace Sys2Proof.Machine

open LayerF

/-- R65: a command of format V sees no data bit at or above its needed length. -/
theorem withOperand_congr {n : Nat} {c : Cause} {len : BitVec 8} {d d' : BitVec 64} {s : State}
    {k : Bits → Host.Outcome State Fault Refusal} (h : ∀ j < n, d.getLsbD j = d'.getLsbD j) :
    withOperand n c len d s k = withOperand n c len d' s k := by
  rw [withOperand, withOperand, take_eq_ofReg, take_eq_ofReg, operand_congr h]

/-- Settles O6: the elements of the operand, and the commands of format V, which reach `data` through it alone. -/
theorem operandIsTheLowDataBits : Obligations.OperandIsTheLowDataBits := by
  refine ⟨fun n data _ => ⟨take_length n data, fun p => take_get data⟩, fun len d d' s => ⟨fun h => ?_, fun h => ?_⟩,
    fun data s => ⟨_, ldblk_good data s, rfl⟩⟩
  · simp only [exec, execLdkey, execMix, execSub, withOperand_congr h, and_self]
  · simp only [exec, execExp, execPrm, execRf, withOperand_congr h, and_self]

/-- R187: a command whose first failing check has cause `c` takes the fault `c`. -/
theorem exec_of_firstFault {i : Instr} {s : State} {c : Cause} (h : firstFault i s = some c) :
    exec i s = .next (s.raiseFault c) := by
  obtain ⟨t, ht, effect⟩ := exec_effect i s
  rw [ht]
  cases effect with
  | fault _ c' hc' =>
    obtain rfl : c' = c := by simpa [hc'] using h
    rfl
  | answer _ _ _ hnone => simp [hnone] at h
  | ldkey => simp [firstFault, Instr.op, neededLength, Instr.len, readsUnloaded] at h
  | ldblk => simp [firstFault, Instr.op, neededLength, Instr.len, readsUnloaded] at h
  | enc _ _ _ hk hb => simp [firstFault, Instr.op, neededLength, readsUnloaded, hk, hb] at h

/-- R63: every command of format V has an opcode below the reserved ones and needs at most 64 bits. -/
theorem neededLength_bounds {i : Instr} {n : Nat} (h : neededLength i = some n) : i.op.toNat < 0xB ∧ n ≤ 64 := by
  cases i <;> simp [neededLength, Instr.op] at h ⊢ <;> omega

/-- R61, R64: the length check comes before the valid flags. -/
theorem firstFault_of_wrong_length {i : Instr} {n : Nat} (s : State) (h : neededLength i = some n)
    (hlen : i.len.toNat ≠ n) : firstFault i s = some (lengthCause i) := by
  have hop : ¬ 0xB ≤ i.op.toNat := Nat.not_le.mpr (neededLength_bounds h).1
  simp [firstFault, hop, h, hlen]

/-- Settles O7: each command's length fault, and for a length above 64 the length check, since no command needs so
many. -/
theorem wrongLengthIsALengthFault : Obligations.WrongLengthIsALengthFault := by
  refine ⟨fun len data s => ?_, fun i n s hn hlen => ?_, rfl, rfl, rfl, rfl⟩
  · exact ⟨ldkey_bad data s, mix_bad data s, ldblk_bad data s, rf_bad data s, exp_bad data s, prm_bad data s,
      sub_bad data s⟩
  · have hne : i.len.toNat ≠ n := by
      have := (neededLength_bounds hn).2
      omega
    exact exec_of_firstFault (firstFault_of_wrong_length s hn hne)

end Sys2Proof.Machine
end

section
/-! The response word (30_encoding.md R68): its layout, and the one response of every command. -/

namespace Sys2Proof.Machine

/-- R68: `RW[75]` as a field of one bit. -/
theorem rspErr_field (w : ResponseWord) : w.extractLsb' 75 1 = BitVec.ofBool (rspErr w) := by
  refine BitVec.eq_of_getLsbD_eq fun i hi => ?_
  obtain rfl : i = 0 := by omega
  simp [rspErr]

/-- R68: the first hexadecimal digit is `err` followed by `cause`. -/
theorem rsp_firstDigit (w : ResponseWord) :
    (w.extractLsb' 72 4).toNat = (rspErr w).toNat * 8 + (rspCause w).toNat := by
  simp only [rspErr, rspCause, BitVec.extractLsb'_toNat, BitVec.getLsbD, Nat.toNat_testBit, Nat.shiftRight_eq_div_pow]
  omega

/-- R68: every command answers once: the word of a fault with a cause, or of a success with the command's result
length and no bit at or above it. -/
theorem CommandEffect.response {i : Instr} {s t : State} (h : CommandEffect s i t) :
    ∃ w, t.responses = s.responses ++ [w] ∧
      ((∃ c, c ≠ .none ∧ w = faultWord c) ∨
        ∃ len data, w = okWord len data ∧ len.toNat = resultLength i ∧ data.toNat < 2 ^ resultLength i) := by
  cases h with
  | fault _ c _ hc => exact ⟨_, rfl, .inl ⟨c, hc, rfl⟩⟩
  | answer _ len data _ hl hd => exact ⟨_, rfl, .inr ⟨len, data, rfl, hl, hd⟩⟩
  | ldkey => exact ⟨_, rfl, .inr ⟨0#8, 0#64, zero_ok, rfl, Nat.one_pos⟩⟩
  | ldblk => exact ⟨_, rfl, .inr ⟨0#8, 0#64, zero_ok, rfl, Nat.one_pos⟩⟩
  | enc _ _ y => exact ⟨_, rfl, .inr ⟨64#8, y, rfl, rfl, y.isLt⟩⟩

/-- Settles O9: the fields of a word made of a response, and for the two kinds of response a command gives, its first
digit and its other fields. -/
theorem responseWordFields : Obligations.ResponseWordFields := by
  refine ⟨fun r => ?_, fun i s t h => ?_⟩
  · obtain ⟨herr, hcause, hlen, hdata⟩ := word_fields r
    exact ⟨by rw [rspErr_field, herr], hcause, hlen, hdata⟩
  · obtain ⟨w, hw, hkind⟩ := (CommandEffect.of_exec h).response
    refine ⟨w, hw, ?_⟩
    rw [← rspErr, ← rspCause, ← rspLen, ← rspData, rsp_firstDigit]
    obtain ⟨c, hc, rfl⟩ | ⟨len, data, rfl, hl, hd⟩ := hkind
    · obtain ⟨herr, hcause, hlen, hdata⟩ := faultWord_fields c
      simp [herr, hcause, hlen, hdata, c.code_range hc]
    · obtain ⟨herr, hcause, hlen, hdata⟩ := okWord_fields len data
      have hdigit : (okWord len data).extractLsb' 72 4 = 0#4 :=
        BitVec.eq_of_toNat_eq (by rw [rsp_firstDigit, herr, hcause]; rfl)
      simp [herr, hlen, hdata, hdigit, hl, hd]

end Sys2Proof.Machine
end

section
/-! The number a vector spells and the command MIX (40_bitvector_utilities.md R83, R85). -/

namespace Sys2Proof.LayerF

/-- R10: the number a vector spells is the sum of its elements times their powers of two. -/
theorem val_eq_sum (v : Bits) : val v = ∑ p : Fin v.length, (v[p]).toNat * 2 ^ (v.length - 1 - p) := by
  induction v with
  | nil => rfl
  | cons b v ih =>
    rw [val_cons, ih]
    simp [Fin.sum_univ_succ, Nat.sub_sub, Nat.add_comm 1]

/-- Settles O28: `toDecimal` is the number a vector spells, and a selector of two or four elements is below its power
of two. -/
theorem decimalIsMostSignificantFirst : Obligations.DecimalIsMostSignificantFirst :=
  ⟨val_eq_sum, rfl, fun _ hx => ⟨Nat.le_of_lt_succ (row_lt hx), Nat.le_of_lt_succ (col_lt hx)⟩, rfl, rfl, rfl⟩

end Sys2Proof.LayerF

namespace Sys2Proof.Machine

/-- Settles O49: MIX with its operand and a loaded key answers their exclusive-or, which the corner cases and the
example evaluate; its two faults are its length check and the valid flag. -/
theorem mixXorsTheKey : Obligations.MixXorsTheKey := by
  refine ⟨mix_good, mix_unloaded, fun len data s => mix_bad data s, ?_, fun data s hk => ⟨fun hd => ?_, fun hd => ?_⟩,
    fun s hk hkey => ?_⟩
  · obtain ⟨herr, -, hlen, hdata⟩ := faultWord_fields .lenXor
    exact ⟨herr, hlen, hdata⟩
  · rw [mix_good data s hk, hd, BitVec.zero_xor]
    rfl
  · rw [mix_good data s hk, hd, BitVec.xor_self]
    rfl
  · have hdec : decode 0x63000007A15557A1555#76 = .mix 48#8 0x7A15557A1555#64 :=
      decode_eq_of_fields (by decide) (by decide) (by decide)
    have hword : okWord 48#8 (((0x7A15557A1555#64).extractLsb' 0 48 ^^^ s.key).setWidth 64) =
        0x03000006117BA866527#76 := by rw [hkey]; decide
    rw [hdec, mix_good _ s hk, hword]
    rfl

end Sys2Proof.Machine
end

section
/-! The permutation engine, its two units and the commands EXP and PRM (41_permutation.md): what `permute` answers, read
off the table, and what follows for the expander, the output permutation and the two commands. -/

namespace Sys2Proof.LayerF

/-- R9: the element at the 1-based position `i` of a register is its bit `w - i`. -/
theorem element_ofReg {w : Nat} (x : BitVec w) {i : Nat} (h1 : 1 ≤ i) (h2 : i ≤ w) :
    element (ofReg x) i = some (x.getLsbD (w - i)) := by
  obtain ⟨p, rfl⟩ : ∃ p, i = p + 1 := ⟨i - 1, by omega⟩
  rw [element, ofReg_get x p h2, Nat.sub_sub, Nat.add_comm 1 p]

theorem element_append_left {v : Bits} (w : Bits) {i : Nat} (h : i ≤ v.length) :
    element (v ++ w) i = element v i := by
  cases i with
  | zero => rfl
  | succ p => exact List.getElem?_append_left h

theorem element_replicate {n i : Nat} (c : Bool) (h1 : 1 ≤ i) (h2 : i ≤ n) :
    element (List.replicate n c) i = some c := by
  obtain ⟨p, rfl⟩ : ∃ p, i = p + 1 := ⟨i - 1, by omega⟩
  exact List.getElem?_replicate_of_lt h2

/-- The elements of a vector are those at its 1-based positions, in order. -/
theorem map_element_range' (v : Bits) : (List.range' 1 v.length).map (element v) = v.map some := by
  apply List.ext_getElem (by simp)
  intro p hp _
  have hp' : p < v.length := by simpa using hp
  simp [element, Nat.add_comm 1 p, hp']

/-- R100: a selection succeeds with the elements that the entries name, in the table's order. -/
theorem select_eq_some_iff {v out : Bits} {table : List Nat} :
    select v table = some out ↔ table.map (element v) = out.map some := by
  induction table generalizing out with
  | nil => cases out <;> simp [select]
  | cons i table ih =>
    rw [select]
    cases hi : element v i with
    | none => cases out <;> simp [hi]
    | some b =>
      cases hs : select v table with
      | none => cases out <;> simp [hi, ← ih, hs]
      | some bs => cases out <;> simp [hi, ← ih, hs]

/-- R100: `permute` answers `out` just when the input is long enough and `out` is the elements the table names. -/
theorem permute_eq_ok_iff {v out : Bits} {table : List Nat} :
    permute v table = .ok out ↔ maxEntry table ≤ v.length ∧ table.map (element v) = out.map some := by
  rw [← select_eq_some_iff, permute]
  split
  · next hlt => simp [Nat.not_le.2 hlt]
  · next hge => cases select v table <;> simp [Nat.not_lt.1 hge]

/-- R100: an entry beyond the input's length is the length error. -/
theorem permute_short {v : Bits} {table : List Nat} {i : Nat} (hi : i ∈ table) (h : v.length < i) :
    permute v table = .error .lengthError := if_pos (h.trans_le (le_maxEntry hi))

/-- R100: elements after those an answered call reads are ignored. -/
theorem permute_append {v out : Bits} {table : List Nat} (extra : Bits) (h : permute v table = .ok out) :
    permute (v ++ extra) table = .ok out := by
  obtain ⟨hm, hs⟩ := permute_eq_ok_iff.1 h
  refine permute_eq_ok_iff.2 ⟨by rw [List.length_append]; omega, hs ▸ List.map_congr_left fun i hi => ?_⟩
  exact element_append_left extra ((le_maxEntry hi).trans hm)

/-- A constant input is answered by the constant vector of the table's length. -/
theorem permute_replicate {n : Nat} {table : List Nat} (c : Bool) (h : ∀ i ∈ table, 1 ≤ i ∧ i ≤ n) :
    permute (List.replicate n c) table = .ok (List.replicate table.length c) := by
  refine permute_eq_ok_iff.2 ⟨by simpa using maxEntry_le fun i hi => (h i hi).2, ?_⟩
  rw [List.map_replicate, List.map_eq_replicate_iff]
  exact fun i hi => element_replicate c (h i hi).1 (h i hi).2

/-- R100 over registers: where the table's entry at the 1-based position `i` is `j`, bit `i` of the output, counted
from the most significant, is bit `j` of the input. -/
theorem permute_ofReg_getLsbD {m n : Nat} {x : BitVec n} {y : BitVec m} {table : List Nat} {i j : Nat}
    (h : permute (ofReg x) table = .ok (ofReg y)) (hi : table[i - 1]? = some j) (hi1 : 1 ≤ i) (him : i ≤ m)
    (hj1 : 1 ≤ j) (hjn : j ≤ n) : y.getLsbD (m - i) = x.getLsbD (n - j) := by
  have hs := congrArg (fun l => l[i - 1]?) (permute_eq_ok_iff.1 h).2
  have hy : (ofReg y)[i - 1]? = some (y.getLsbD (m - i)) := by
    rw [ofReg_get y (i - 1) (by omega), Nat.sub_sub, Nat.add_sub_cancel' hi1]
  simpa [hi, hy, element_ofReg x hj1 hjn] using hs.symm

/-- Settles O30, from the length test, the selection and the extra elements no entry names. -/
theorem permuteSelectsByIndex : Obligations.PermuteSelectsByIndex := by
  intro v table h1
  refine ⟨fun ⟨i, hi, hlt⟩ => permute_short hi hlt, fun hle => ?_, rfl⟩
  obtain ⟨out, hout, hl, hs⟩ := permute_spec fun i hi => ⟨h1 i hi, hle i hi⟩
  exact ⟨⟨out, hout, hl, hs⟩, fun extra => by rw [hout, permute_append extra hout]⟩

theorem expand_eq_permute (T : Config.Tables) {r : Bits} (h : r.length = 32) : expand T r = permute r T.eTable :=
  if_pos h

theorem finalPermute_eq_permute (T : Config.Tables) {r : Bits} (h : r.length = 32) :
    finalPermute T r = permute r T.pTable := if_pos h

/-- R103. -/
theorem expand_bad (T : Config.Tables) {r : Bits} (h : r.length ≠ 32) : expand T r = .error .lengthError := if_neg h

/-- R103. -/
theorem finalPermute_bad (T : Config.Tables) {r : Bits} (h : r.length ≠ 32) :
    finalPermute T r = .error .lengthError := if_neg h

/-- Settles O31: the units test the length themselves, while the tables' entries are at most 32 and so within every
longer vector. -/
theorem unitsTakeExactly32Bits : Obligations.UnitsTakeExactly32Bits := by
  intro T v
  obtain ⟨-, hE, -, hP, -⟩ := wf_spec T.property
  refine ⟨fun h => ⟨expand_bad T.val h, finalPermute_bad T.val h⟩, fun h => ?_, fun h => ?_⟩
  · obtain ⟨x, hx, hxl, -⟩ := expand_ok T h
    obtain ⟨y, hy, hyl, -⟩ := finalPermute_ok T h
    exact ⟨⟨x, hx, hxl⟩, y, hy, hyl⟩
  · have accepts {table : List Nat} (ht : ∀ i ∈ table, 1 ≤ i ∧ i ≤ 32) : ∃ x, permute v table = .ok x := by
      obtain ⟨x, hx, -⟩ := permute_spec (v := v) fun i hi => ⟨(ht i hi).1, (ht i hi).2.trans h.le⟩
      exact ⟨x, hx⟩
    exact ⟨accepts hE, accepts hP⟩

/-- R41, R101: the E-ROM read inside its range. -/
theorem romE_ok (T : Config.TableConfig) {i : Nat} (h1 : 1 ≤ i) (h2 : i ≤ 48) :
    ∃ j, romE T.val i = some j ∧ T.val.eTable[i - 1]? = some j ∧ 1 ≤ j ∧ j ≤ 32 := by
  obtain ⟨hl, hr, -⟩ := wf_spec T.property
  have hget := List.getElem?_eq_getElem (l := T.val.eTable) (i := i - 1) (by omega)
  exact ⟨_, by rw [romE, if_pos ⟨h1, h2⟩, hget], hget, hr _ (List.getElem_mem _)⟩

/-- R42, R101: the P-ROM read inside its range. -/
theorem romP_ok (T : Config.TableConfig) {i : Nat} (h1 : 1 ≤ i) (h2 : i ≤ 32) :
    ∃ j, romP T.val i = some j ∧ T.val.pTable[i - 1]? = some j ∧ 1 ≤ j ∧ j ≤ 32 := by
  obtain ⟨-, -, hl, hr, -⟩ := wf_spec T.property
  have hget := List.getElem?_eq_getElem (l := T.val.pTable) (i := i - 1) (by omega)
  exact ⟨_, by rw [romP, if_pos ⟨h1, h2⟩, hget], hget, hr _ (List.getElem_mem _)⟩

theorem expand_replicate (T : Config.TableConfig) (c : Bool) :
    expand T.val (List.replicate 32 c) = .ok (List.replicate 48 c) := by
  obtain ⟨hl, hr, -⟩ := wf_spec T.property
  rw [expand_eq_permute T.val List.length_replicate, permute_replicate c hr, hl]

theorem finalPermute_replicate (T : Config.TableConfig) (c : Bool) :
    finalPermute T.val (List.replicate 32 c) = .ok (List.replicate 32 c) := by
  obtain ⟨-, -, hl, hr, -⟩ := wf_spec T.property
  rw [finalPermute_eq_permute T.val List.length_replicate, permute_replicate c hr, hl]

/-- R101: the P-ROM holds each of 1..32 once. -/
theorem pTable_perm (T : Config.TableConfig) : T.val.pTable.Perm (List.range' 1 32) := by
  obtain ⟨-, -, -, hr, hcount, -⟩ := wf_spec T.property
  refine List.perm_iff_count.2 fun a => ?_
  by_cases ha : 1 ≤ a ∧ a ≤ 32
  · have hmem : a ∈ List.range' 1 32 := List.mem_range'_1.2 (by omega)
    rw [List.count_eq_one_of_mem List.nodup_range' hmem, ← hcount (a - 1) (by omega), Nat.sub_add_cancel ha.1]
  · rw [List.count_eq_zero_of_not_mem fun h => ha (hr a h),
      List.count_eq_zero_of_not_mem fun h => ha (by have := List.mem_range'_1.1 h; omega)]

/-- 41_permutation.md section 3: the output permutation answers a rearrangement of its input. -/
theorem finalPermute_perm (T : Config.TableConfig) {r v : Bits} (h : finalPermute T.val r = .ok v) : v.Perm r := by
  have hl : r.length = 32 := by
    by_contra hne
    simp [finalPermute_bad T.val hne] at h
  rw [finalPermute_eq_permute T.val hl] at h
  have hperm := (pTable_perm T).map (element r)
  rw [(permute_eq_ok_iff.1 h).2, ← hl, map_element_range'] at hperm
  exact (List.map_perm_map_iff (Option.some_injective Bool)).1 hperm

end Sys2Proof.LayerF

namespace Sys2Proof.Machine

open LayerF

/-- R107: EXP answers what the expander answers on its operand. -/
theorem exp_of_expand {data : BitVec 64} {v : BitVec 48} (s : State)
    (h : expand Config.tables.val (ofReg (data.extractLsb' 0 32)) = .ok (ofReg v)) :
    exec (.exp 32#8 data) s = .next (s.answer (okWord 48#8 (v.setWidth 64))) := by
  obtain ⟨y, hy, hexec⟩ := exp_good data s
  rwa [ofReg_ok_inj hy h] at hexec

/-- R108: PRM answers what the output permutation answers on its operand. -/
theorem prm_of_finalPermute {data : BitVec 64} {v : BitVec 32} (s : State)
    (h : finalPermute Config.tables.val (ofReg (data.extractLsb' 0 32)) = .ok (ofReg v)) :
    exec (.prm 32#8 data) s = .next (s.answer (okWord 32#8 (v.setWidth 64))) := by
  obtain ⟨y, hy, hexec⟩ := prm_good data s
  rwa [ofReg_ok_inj hy h] at hexec

/-- Bit `j` of a 32-bit operand, counted from the most significant, as a bit of the data field (R65). -/
theorem operand32_getLsbD (data : BitVec 64) {j : Nat} (h : 1 ≤ j) :
    (data.extractLsb' 0 32).getLsbD (32 - j) = data.getLsbD (32 - j) := by
  have hlt : 32 - j < 32 := by omega
  simp [hlt]

/-- Settles O50: the answer is the expander's, whose bits the E-ROM names; the constant operands and the two examples
are values of the expander. -/
theorem expAnswersTheExpansion : Obligations.ExpAnswersTheExpansion := by
  refine ⟨fun data s => ?_, fun len data s => exp_bad data s, fun s => ⟨?_, ?_⟩⟩
  · obtain ⟨v, hv, hexec⟩ := exp_good data s
    refine ⟨v, hexec, hv, fun i h1 h2 => ?_, fun h => ?_, fun h => ?_⟩
    · obtain ⟨j, hrom, hj, hj1, hj2⟩ := romE_ok Config.tables h1 h2
      rw [expand_eq_permute _ (ofReg_length _)] at hv
      exact ⟨j, hrom, hj1, hj2, by rw [permute_ofReg_getLsbD hv hj h1 h2 hj1 hj2, operand32_getLsbD data hj1]⟩
    · exact ofReg_ok_inj hv (by rw [h, ← zeros_reg 32, expand_replicate, zeros_reg])
    · exact ofReg_ok_inj hv (by rw [h, ← ones_reg 32, expand_replicate, ones_reg])
  · have hdec : decode 0x52000000000F0AAF0AA#76 = .exp 32#8 0xF0AAF0AA#64 :=
      decode_eq_of_fields (by decide) (by decide) (by decide)
    have hword : okWord 48#8 ((0x7A15557A1555#48).setWidth 64) = 0x03000007A15557A1555#76 := by decide
    rw [hdec, exp_of_expand (v := 0x7A15557A1555#48) s (by decide +kernel), hword]
    rfl
  · exact exp_of_expand (v := 0x400000000001#48) s (by decide +kernel)

/-- Settles O51: the answer is the output permutation's, whose bits the P-ROM names and which rearranges its input; the
constant operands and the two examples are values of it. -/
theorem prmAnswersThePermutation : Obligations.PrmAnswersThePermutation := by
  refine ⟨fun data s => ?_, fun len data s => prm_bad data s, fun s => ⟨?_, ?_⟩⟩
  · obtain ⟨v, hv, hexec⟩ := prm_good data s
    refine ⟨v, hexec, hv, fun i h1 h2 => ?_, fun h => ?_, fun h => ?_, (finalPermute_perm _ hv).count_eq true⟩
    · obtain ⟨j, hrom, hj, hj1, hj2⟩ := romP_ok Config.tables h1 h2
      rw [finalPermute_eq_permute _ (ofReg_length _)] at hv
      exact ⟨j, hrom, hj1, hj2, by rw [permute_ofReg_getLsbD hv hj h1 h2 hj1 hj2, operand32_getLsbD data hj1]⟩
    · exact ofReg_ok_inj hv (by rw [h, ← zeros_reg 32, finalPermute_replicate, zeros_reg])
    · exact ofReg_ok_inj hv (by rw [h, ← ones_reg 32, finalPermute_replicate, ones_reg])
  · have hdec : decode 0x820000000005C82B597#76 = .prm 32#8 0x5C82B597#64 :=
      decode_eq_of_fields (by decide) (by decide) (by decide)
    have hword : okWord 32#8 ((0x234AA9BB#32).setWidth 64) = 0x02000000000234AA9BB#76 := by decide
    rw [hdec, prm_of_finalPermute (v := 0x234AA9BB#32) s (by decide +kernel), hword]
    rfl
  · exact prm_of_finalPermute (v := 0x00800000#32) s (by decide +kernel)

end Sys2Proof.Machine
end

section
/-! The substitution engine and the command SUB (42_substitution.md): which bits of a register a group, a row, a column
and a lane's output are, and the S-ROM entry that joins them. -/

namespace Sys2Proof.LayerF

/-- R12 over registers: a slice of length `n` is the `n`-bit field of the register with `lo` bits below it. -/
theorem slice_ofReg {w p q n lo : Nat} (x : BitVec w) (hpq : p ≤ q) (hn : p + n = q + 1) (hlo : q + 1 + lo = w) :
    slice (ofReg x) p q = ofReg (x.extractLsb' lo n) := by
  have hl : (slice (ofReg x) p q).length = n := by
    have := slice_length (ofReg x) p q (by rw [ofReg_length]; omega)
    omega
  refine bits_ext (by rw [hl, ofReg_length]) fun k hk => ?_
  have hk : k < n := by rwa [hl] at hk
  have hbit : w - 1 - (p + k) = lo + (n - 1 - k) := by omega
  have hin : n - 1 - k < n := by omega
  rw [slice_get _ _ _ _ (by omega), ofReg_get _ _ (by omega), ofReg_get _ _ hk, BitVec.getLsbD_extractLsb', hbit]
  simp only [hin, decide_true, Bool.true_and]

/-- R125: group `g` of a 48-bit register. -/
theorem group_ofReg (m : BitVec 48) {g : Nat} (hg : g < 8) :
    group (ofReg m) g = [m.getLsbD (47 - 6 * g), m.getLsbD (46 - 6 * g), m.getLsbD (45 - 6 * g),
      m.getLsbD (44 - 6 * g), m.getLsbD (43 - 6 * g), m.getLsbD (42 - 6 * g)] := by
  refine bits_ext (group_length (ofReg_length m) hg) fun k hk => ?_
  have hk : k < 6 := by rwa [group_length (ofReg_length m) hg] at hk
  rw [group, slice_get _ _ _ _ (by omega), ofReg_get _ _ (by omega)]
  interval_cases k <;> simp only [List.getElem?_cons_zero, List.getElem?_cons_succ] <;> congr 2 <;> omega

/-- R126. -/
theorem row_six (x0 x1 x2 x3 x4 x5 : Bool) : row [x0, x1, x2, x3, x4, x5] = 2 * x0.toNat + x5.toNat := by
  simp [row, toDecimal, slice, val, Nat.mul_comm]

/-- R126. -/
theorem col_six (x0 x1 x2 x3 x4 x5 : Bool) :
    col [x0, x1, x2, x3, x4, x5] = 8 * x1.toNat + 4 * x2.toNat + 2 * x3.toNat + x4.toNat := by
  simp [col, toDecimal, slice, val, Nat.mul_comm]
  omega

/-- R127, R128: lane `g` of the output holds the S-ROM entry that group `g` of the input selects. -/
theorem substitute_lane (T : Config.TableConfig) {m : BitVec 48} {v : BitVec 32}
    (h : substitute T.val (ofReg m) = .ok (ofReg v)) {g : Nat} (hg : g < 8) :
    ∃ e, romS T.val g (row (group (ofReg m) g)) (col (group (ofReg m) g)) = some e ∧
      (v.extractLsb' (28 - 4 * g) 4).toNat = e := by
  obtain ⟨y, hy, -, hlane⟩ := substitute_ok T (ofReg_length m)
  obtain rfl : y = ofReg v := Except.ok.inj (hy.symm.trans h)
  obtain ⟨e, hrom, hle, hlook⟩ := sboxLookup_ok T hg (group_length (ofReg_length m) hg)
  have hslice : ofReg (v.extractLsb' (28 - 4 * g) 4) = slice (ofReg v) (4 * g) (4 * g + 3) :=
    (slice_ofReg v (by omega) (by omega) (by omega)).symm
  have hout : slice (ofReg v) (4 * g) (4 * g + 3) = vec 4 e := Except.ok.inj ((hlane g hg).symm.trans hlook)
  exact ⟨e, hrom, by rw [← val_ofReg, hslice, hout, val_vec 4 e (by omega)]⟩

end Sys2Proof.LayerF

namespace Sys2Proof.Machine

open LayerF

/-- R129: SUB answers what the substitution answers on its operand. -/
theorem sub_of_substitute {data : BitVec 64} {v : BitVec 32} (s : State)
    (h : substitute Config.tables.val (ofReg (data.extractLsb' 0 48)) = .ok (ofReg v)) :
    exec (.sub 48#8 data) s = .next (s.answer (okWord 32#8 (v.setWidth 64))) := by
  obtain ⟨y, hy, hexec⟩ := sub_good data s
  rwa [ofReg_ok_inj hy h] at hexec

/-- Settles O52: the answer is the substitution's, whose lanes are the S-ROM entries that the operand's groups select;
the constant operands and the example are values of it. -/
theorem subAnswersTheSubstitution : Obligations.SubAnswersTheSubstitution := by
  refine ⟨fun data s => ?_, fun len data s => sub_bad data s, fun s => ?_, by decide +kernel⟩
  · obtain ⟨v, hv, hexec⟩ := sub_good data s
    refine ⟨v, hexec, hv, fun g hg => ?_, fun h => ?_, fun h => ?_⟩
    · have hlane := substitute_lane Config.tables hv hg
      rw [group_ofReg _ hg, row_six, col_six] at hlane
      have hbit {j : Nat} (hj : j < 48) : (data.extractLsb' 0 48).getLsbD j = data.getLsbD j := by simp [hj]
      simpa (disch := omega) only [hbit] using hlane
    · exact ofReg_ok_inj hv (by rw [h]; decide +kernel)
    · exact ofReg_ok_inj hv (by rw [h]; decide +kernel)
  · have hdec : decode 0x73000006117BA866527#76 = .sub 48#8 0x6117BA866527#64 :=
      decode_eq_of_fields (by decide) (by decide) (by decide)
    have hword : okWord 32#8 ((0x5C82B597#32).setWidth 64) = 0x020000000005C82B597#76 := by decide
    rw [hdec, sub_of_substitute (v := 0x5C82B597#32) s (by decide +kernel), hword]
    rfl

end Sys2Proof.Machine
end

section
/-! The round function (43_round_function.md R140, R142): its length checks in their order, and its steps X, M, S, F. -/

namespace Sys2Proof.LayerF

/-- R142: the half block is checked first, whatever the subkey. -/
theorem roundFunction_halfBlock_error (T : Config.Tables) {r : Bits} (k : Bits) (hr : r.length ≠ 32) :
    roundFunction T r k = .error .lengthError := if_neg hr

/-- R140: the subkey is checked second. -/
theorem roundFunction_subkey_error (T : Config.Tables) {r k : Bits} (hr : r.length = 32) (hk : k.length ≠ 48) :
    roundFunction T r k = .error .lengthError := by
  rw [roundFunction, if_pos hr, if_neg hk]

/-- R140: with both lengths right and its first three steps answered, the round function is the last step. -/
theorem roundFunction_of_steps {T : Config.Tables} {r k x m s : Bits} (hr : r.length = 32) (hk : k.length = 48)
    (hx : expand T r = .ok x) (hm : xor x k = .ok m) (hs : substitute T m = .ok s) :
    roundFunction T r k = finalPermute T s := by
  simp only [roundFunction, hr, hk, hx, hm, hs, bind, Except.bind, if_true]

/-- Settles O38: the two length checks, then each step on the answer of the one before it, whose length is the one its
contract asks for. -/
theorem roundFunctionIsFourSteps : Obligations.RoundFunctionIsFourSteps := by
  intro T r k
  refine ⟨roundFunction_halfBlock_error T.val k, roundFunction_subkey_error T.val, fun hr hk => ?_⟩
  obtain ⟨x, hx, hxl, -⟩ := expand_ok T hr
  have hm := xor_ok (hxl.trans hk.symm)
  have hml := (xor_length hm).2.trans hxl
  obtain ⟨s, hs, hsl, -⟩ := substitute_ok T hml
  obtain ⟨f, hf, hfl, -⟩ := finalPermute_ok T hsl
  have hround := (roundFunction_of_steps hr hk hx hm hs).trans hf
  rw [expand_eq_permute _ hr] at hx
  rw [finalPermute_eq_permute _ hsl] at hf
  exact ⟨x, _, s, f, hx, hxl, hm, hml, hs, hsl, hf, hfl, hround⟩

end Sys2Proof.LayerF
end

section
/-! One Feistel round over vectors and over registers, and the commands LDKEY, LDBLK, ENC and RDOUT
(44_feistel_driver.md R150 to R157). -/

namespace Sys2Proof.LayerF

/-- R150: two half blocks are the halves of their concatenation. -/
theorem slice_halves {l r : Bits} (hl : l.length = 32) (hr : r.length = 32) :
    slice (l ++ r) 0 31 = l ∧ slice (l ++ r) 32 63 = r := by
  constructor
  · simp [slice, List.take_left' hl]
  · simp [slice, List.drop_left' hl, List.take_of_length_le hr.le]

/-- Settles O40: the round answers the old right half followed by the mixed half, and each is 32 bits long. -/
theorem oneRoundSwapsAndMixes : Obligations.OneRoundSwapsAndMixes := by
  intro T b k hb hk
  obtain ⟨f, nr, hf, -, hmix, hnr, hround⟩ := encryptOneRound_ok T hb hk
  have hright : (slice b 32 63).length = 32 := by simp [slice, hb]
  obtain ⟨hfirst, hsecond⟩ := slice_halves hright hnr
  exact ⟨_, f, hround, by simp [hright, hnr], hfirst, hf, by rw [hsecond, hmix]⟩

/-- R150 over registers: the left half is the upper word of the block. -/
theorem split_ofReg (b : BitVec 64) :
    split (ofReg b) = .ok (ofReg (b.extractLsb' 32 32), ofReg (b.extractLsb' 0 32)) := by
  rw [split_ok (ofReg_length b), slice_ofReg (n := 32) (lo := 32) b (by decide) rfl rfl,
    slice_ofReg (n := 32) (lo := 0) b (by decide) rfl rfl]

/-- R151 over registers: one round in terms of the round function's answer. -/
theorem encryptOneRound_of_roundFunction {T : Config.Tables} {b : BitVec 64} {k : BitVec 48} {f : BitVec 32}
    (h : roundFunction T (ofReg (b.extractLsb' 0 32)) (ofReg k) = .ok (ofReg f)) :
    encryptOneRound T (ofReg b) (ofReg k) = .ok (ofReg (b.extractLsb' 0 32 ++ (f ^^^ b.extractLsb' 32 32))) := by
  simp only [encryptOneRound, split_ofReg, ofReg_length, h, xor_ofReg, append_reg, bind, Except.bind, if_true]

/-- R152 over registers: the upper word of the result is the lower word of the block, whatever the key and tables. -/
theorem encryptOneRound_upper (T : Config.TableConfig) {b y : BitVec 64} {k : BitVec 48}
    (h : encryptOneRound T.val (ofReg b) (ofReg k) = .ok (ofReg y)) :
    y.extractLsb' 32 32 = b.extractLsb' 0 32 := by
  obtain ⟨v, hv, hl⟩ := roundFunction_ok T (ofReg_length (b.extractLsb' 0 32)) (ofReg_length k)
  obtain ⟨f, rfl⟩ := as_reg hl
  rw [ofReg_ok_inj h (encryptOneRound_of_roundFunction hv)]
  exact BitVec.extractLsb'_append_eq_left

end Sys2Proof.LayerF

namespace Sys2Proof.Machine

open LayerF

/-- R154: a second load of the same key finds the register and its flag as it leaves them. -/
theorem State.loadKey_again (k : BitVec 48) (w : ResponseWord) (s : State) :
    ((s.loadKey k).answer w).loadKey k = (s.loadKey k).answer w := by
  simp [State.loadKey, State.answer, setKV, BitVec.or_assoc]

/-- Settles O45: LDKEY's success and its fault; the second load changes nothing but the responses, and MIX under the
zero key is an exclusive-or with zero. -/
theorem ldkeyReplacesTheKey : Obligations.LdkeyReplacesTheKey := by
  refine ⟨fun data s => ?_, fun len data s h => ?_, fun data s => ?_, fun data s hkey hk => ?_, fun s => ?_⟩
  · obtain ⟨hkv, hbv, hov, herr, hcause, -⟩ := setKV_fields s.status
    exact ⟨ldkey_good data s, hkv, hbv, hov, herr, hcause⟩
  · exact ⟨_, ldkey_bad data s h, rfl, rfl, s.raiseFault_kv _⟩
  · refine ⟨_, _, ldkey_good data s, ldkey_good data _, ?_⟩
    rw [State.loadKey_again]
    rfl
  · have hzero : data.extractLsb' 0 48 ^^^ s.key = data.extractLsb' 0 48 := by rw [hkey, BitVec.xor_zero]
    rw [mix_good data s hk, hzero]
    rfl
  · have hdec : decode 0x13000001B02EFFC7072#76 = .ldkey 48#8 0x1B02EFFC7072#64 :=
      decode_eq_of_fields (by decide) (by decide) (by decide)
    have hlow : (0x1B02EFFC7072#64).extractLsb' 0 48 = 0x1B02EFFC7072#48 := by decide
    rw [hdec]
    exact ⟨_, ldkey_good _ s, hlow, by simp, rfl⟩

/-- Settles O46: LDBLK's success and its length fault, with the example's block split into its two words. -/
theorem ldblkReplacesTheBlock : Obligations.LdblkReplacesTheBlock := by
  refine ⟨fun data s => ?_, fun len data s h => ?_, fun s => ?_, fun s => ?_⟩
  · obtain ⟨hbv, hkv, hov, herr, hcause, -⟩ := setBV_fields s.status
    exact ⟨ldblk_good data s, hbv, hkv, hov, herr, hcause⟩
  · exact ⟨_, ldblk_bad data s h, rfl, rfl, s.raiseFault_bv _⟩
  · have hdec : decode 0x240CC00CCFFF0AAF0AA#76 = .ldblk 64#8 0xCC00CCFFF0AAF0AA#64 :=
      decode_eq_of_fields (by decide) (by decide) (by decide)
    rw [hdec]
    exact ⟨_, ldblk_good _ s, rfl, by simp, rfl, split_ofReg 0xCC00CCFFF0AAF0AA#64⟩
  · have hdec : decode 0x23F0000000000000000#76 = .ldblk 63#8 0#64 :=
      decode_eq_of_fields (by decide) (by decide) (by decide)
    have hword : faultWord .lenBlock = 0xB000000000000000000#76 := by decide
    rw [hdec, ← hword]
    exact ⟨_, ldblk_bad _ s (by decide), rfl⟩

/-- R156: ENC on loaded registers writes and answers what the round answers on BLOCK and KEY. -/
theorem enc_of_encryptOneRound (len : BitVec 8) (data : BitVec 64) {s : State} {y : BitVec 64} (hb : s.bv = true)
    (hk : s.kv = true) (h : encryptOneRound Config.tables.val (ofReg s.block) (ofReg s.key) = .ok (ofReg y)) :
    exec (.enc len data) s = .next ((s.writeOut y).answer (okWord 64#8 y)) := by
  obtain ⟨z, hz, hexec⟩ := enc_good len data s hb hk
  rwa [ofReg_ok_inj hz h] at hexec

/-- R156, the spec's example: the round function on the example's right half and key. -/
theorem roundFunction_example :
    roundFunction Config.tables.val (ofReg 0xF0AAF0AA#32) (ofReg 0x1B02EFFC7072#48) = .ok (ofReg 0x234AA9BB#32) := by
  decide +kernel

/-- R156, the spec's example: the round, from its round function. -/
theorem encryptOneRound_example :
    encryptOneRound Config.tables.val (ofReg 0xCC00CCFFF0AAF0AA#64) (ofReg 0x1B02EFFC7072#48) =
      .ok (ofReg 0xF0AAF0AAEF4A6544#64) := by
  have hlower : (0xCC00CCFFF0AAF0AA#64).extractLsb' 0 32 = 0xF0AAF0AA#32 := by decide
  have hround := roundFunction_example
  rw [← hlower] at hround
  have hresult : (0xCC00CCFFF0AAF0AA#64).extractLsb' 0 32 ++
      (0x234AA9BB#32 ^^^ (0xCC00CCFFF0AAF0AA#64).extractLsb' 32 32) = 0xF0AAF0AAEF4A6544#64 := by decide
  rw [encryptOneRound_of_roundFunction hround, hresult]

/-- Settles O47: ENC is determined by BLOCK, KEY and their flags, which neither an ENC nor a fault changes; with a flag
at 0 it is the fault entry. -/
theorem encPerformsOneRound : Obligations.EncPerformsOneRound := by
  refine ⟨fun len data s hb hk => ?_, fun st => ?_, fun len data s h => ?_, fun s hb hk hblock hkey => ?_,
    roundFunction_example, xor_ofReg _ _⟩
  · obtain ⟨y, hy, hexec⟩ := enc_good len data s hb hk
    refine ⟨y, hy, hexec, encryptOneRound_upper _ hy, fun len' data' => ?_, fun c => ?_⟩
    · have hb' : ((s.writeOut y).answer (okWord 64#8 y)).bv = true := by simp [hb]
      have hk' : ((s.writeOut y).answer (okWord 64#8 y)).kv = true := by simp [hk]
      exact ⟨_, enc_of_encryptOneRound len' data' hb' hk' hy, rfl⟩
    · have hb' : (s.raiseFault c).bv = true := by simp [hb]
      have hk' : (s.raiseFault c).kv = true := by simp [hk]
      exact ⟨_, enc_of_encryptOneRound len data hb' hk' hy, rfl⟩
  · obtain ⟨hov, hkv, hbv, herr, hcause, -⟩ := setOV_fields st
    exact ⟨hov, hkv, hbv, herr, hcause⟩
  · exact ⟨_, enc_unloaded len data s h.symm, rfl, rfl, s.raiseFault_ov _⟩
  · have hdec : decode 0x3000000000000000000#76 = .enc 0#8 0#64 :=
      decode_eq_of_fields (by decide) (by decide) (by decide)
    have hword : okWord 64#8 0xF0AAF0AAEF4A6544#64 = 0x040F0AAF0AAEF4A6544#76 := by decide
    have hround := encryptOneRound_example
    rw [← hblock, ← hkey] at hround
    rw [hdec, ← hword]
    exact ⟨_, enc_of_encryptOneRound 0#8 0#64 hb hk hround, rfl, by simp, rfl⟩

/-- R22: ENC alone writes OUT. -/
theorem CommandEffect.out_eq {i : Instr} {s t : State} (h : CommandEffect s i t)
    (hi : ∀ len data, i ≠ .enc len data) : t.out = s.out := by
  cases h with
  | enc len data => exact absurd rfl (hi len data)
  | _ => rfl

/-- R157: after a command other than ENC, faulting or not, RDOUT answers the OUT from before it. -/
theorem rdout_after {i : Instr} {s : State} (len : BitVec 8) (data : BitVec 64) (hi : ∀ len data, i ≠ .enc len data)
    (hov : s.ov = true) :
    ∃ t, exec i s = .next t ∧ exec (.rdout len data) t = .next (t.answer (okWord 64#8 s.out)) := by
  obtain ⟨t, ht, effect⟩ := exec_effect i s
  obtain ⟨-, -, hrise⟩ := effect.flags_rise
  refine ⟨t, ht, ?_⟩
  rw [rdout_good len data t (hrise hov), effect.out_eq hi]

/-- Settles O48: RDOUT's success and its fault, and the two loads, neither of which is an ENC. -/
theorem rdoutAnswersOut : Obligations.RdoutAnswersOut := by
  have hdec : decode 0x4000000000000000000#76 = .rdout 0#8 0#64 :=
    decode_eq_of_fields (by decide) (by decide) (by decide)
  refine ⟨rdout_good, rdout_unloaded, fun len _ data _ s hov => ⟨?_, ?_⟩, fun s hov hout => ?_, ?_⟩
  · exact rdout_after len data (by simp) hov
  · exact rdout_after len data (by simp) hov
  · have hword : okWord 64#8 s.out = 0x040F0AAF0AAEF4A6544#76 := by rw [hout]; decide
    rw [hdec, ← hword]
    exact ⟨_, rdout_good _ _ s hov, rfl⟩
  · have hword : faultWord .notLoaded = 0xE000000000000000000#76 := by decide
    rw [hdec, ← hword]
    exact ⟨_, rdout_unloaded _ _ _ rfl, rfl⟩

end Sys2Proof.Machine
end

section
/-! A run of command words, one command at a time (00_scope.md R19): the word of a command is decoded as the command
(30_encoding.md R62), and the words behind it stay to be sent. -/

namespace Sys2Proof

/-- R62: a command's word is decoded as the command. -/
@[simp] theorem decode_encode (i : Instr) : decode (encode i) = i := by
  obtain ⟨hop, hlen, hdata⟩ := makeWord_fields i.op i.len i.data
  exact decode_eq_of_fields hop hlen hdata

end Sys2Proof

namespace Sys2Proof.Machine

/-- R19: a run of command words, one word at a time: the first is executed and the others stay to be sent. -/
theorem run_sending_cons {n : Nat} {w : CommandWord} {i : Instr} {ws : List CommandWord} {s t : State}
    (hdec : decode w = i) (h : exec i (s.sending ws) = .next (t.sending ws)) :
    Host.Core.run Sys2Proof.core (n + 1) (s.sending (w :: ws)) = Host.Core.run Sys2Proof.core n (t.sending ws) := by
  subst hdec
  exact run_next h

/-- R154: LDKEY sent on the command port. -/
theorem run_ldkey (n : Nat) (k : BitVec 64) (ws : List CommandWord) (s : State) :
    Host.Core.run Sys2Proof.core (n + 1) (s.sending (encode (.ldkey 48#8 k) :: ws)) =
      Host.Core.run Sys2Proof.core n (((s.loadKey (k.extractLsb' 0 48)).answer 0#76).sending ws) :=
  run_sending_cons (decode_encode _) (ldkey_good k _)

/-- R155: LDBLK sent on the command port. -/
theorem run_ldblk (n : Nat) (b : BitVec 64) (ws : List CommandWord) (s : State) :
    Host.Core.run Sys2Proof.core (n + 1) (s.sending (encode (.ldblk 64#8 b) :: ws)) =
      Host.Core.run Sys2Proof.core n (((s.loadBlock b).answer 0#76).sending ws) :=
  run_sending_cons (decode_encode _) (ldblk_good b _)

/-- R155, R64: LDBLK with another length sent on the command port. -/
theorem run_ldblk_bad {w : CommandWord} {len : BitVec 8} {data : BitVec 64} (hdec : decode w = .ldblk len data)
    (hlen : len ≠ 64#8) (n : Nat) (ws : List CommandWord) (s : State) :
    Host.Core.run Sys2Proof.core (n + 1) (s.sending (w :: ws)) =
      Host.Core.run Sys2Proof.core n ((s.raiseFault .lenBlock).sending ws) :=
  run_sending_cons hdec (ldblk_bad data _ hlen)

/-- R171: RDST sent on the command port. -/
theorem run_rdst {w : CommandWord} {len : BitVec 8} {data : BitVec 64} (hdec : decode w = .rdst len data) (n : Nat)
    (ws : List CommandWord) (s : State) :
    Host.Core.run Sys2Proof.core (n + 1) (s.sending (w :: ws)) =
      Host.Core.run Sys2Proof.core n ((s.answer (okWord 8#8 (s.status.setWidth 64))).sending ws) :=
  run_sending_cons hdec (rdst_good len data _)

/-- R156: ENC sent on the command port, with both registers loaded. -/
theorem run_enc (len : BitVec 8) (data : BitVec 64) {s : State} (hb : s.bv = true) (hk : s.kv = true) :
    ∃ y : BitVec 64,
      LayerF.encryptOneRound Config.tables.val (LayerF.ofReg s.block) (LayerF.ofReg s.key) = .ok (LayerF.ofReg y) ∧
      ∀ (n : Nat) (ws : List CommandWord),
        Host.Core.run Sys2Proof.core (n + 1) (s.sending (encode (.enc len data) :: ws)) =
          Host.Core.run Sys2Proof.core n (((s.writeOut y).answer (okWord 64#8 y)).sending ws) := by
  obtain ⟨y, hy, -⟩ := enc_good len data s hb hk
  exact ⟨y, hy, fun n ws =>
    run_sending_cons (decode_encode _) (enc_of_encryptOneRound (s := s.sending ws) len data hb hk hy)⟩

end Sys2Proof.Machine
end

section
/-! The fault record, ERR and CAUSE, under each update of the state (10_state.md R25, R27). -/

namespace Sys2Proof.Machine

@[simp] theorem State.answer_err (w : ResponseWord) (s : State) : (s.answer w).err = s.err := rfl
@[simp] theorem State.answer_cause (w : ResponseWord) (s : State) : (s.answer w).cause = s.cause := rfl

@[simp] theorem State.loadKey_err (k : BitVec 48) (s : State) : (s.loadKey k).err = s.err := by simp [State.err]
@[simp] theorem State.loadKey_cause (k : BitVec 48) (s : State) : (s.loadKey k).cause = s.cause := by
  simp [State.cause]

@[simp] theorem State.loadBlock_err (b : BitVec 64) (s : State) : (s.loadBlock b).err = s.err := by simp [State.err]
@[simp] theorem State.loadBlock_cause (b : BitVec 64) (s : State) : (s.loadBlock b).cause = s.cause := by
  simp [State.cause]

@[simp] theorem State.writeOut_err (y : BitVec 64) (s : State) : (s.writeOut y).err = s.err := by simp [State.err]
@[simp] theorem State.writeOut_cause (y : BitVec 64) (s : State) : (s.writeOut y).cause = s.cause := by
  simp [State.cause]

@[simp] theorem State.raiseFault_err (c : Cause) (s : State) : (s.raiseFault c).err = true := by simp [State.err]
@[simp] theorem State.raiseFault_cause (c : Cause) (s : State) : (s.raiseFault c).cause = c.code := by
  simp [State.cause]

@[simp] theorem State.hostReset_err (s : State) : s.hostReset.err = false := by simp [State.err, statusERR]
@[simp] theorem State.hostReset_cause (s : State) : s.hostReset.cause = 0#3 := by simp [State.cause, statusCAUSE]

/-- R27: a command leaves ERR and CAUSE as they were, or records a fault with a cause that is not 0. -/
theorem CommandEffect.fault_record {i : Instr} {s t : State} (h : CommandEffect s i t) :
    (t.err = s.err ∧ t.cause = s.cause) ∨ (t.err = true ∧ t.cause ≠ 0#3) := by
  cases h with
  | fault _ c _ hc =>
    have hcode : c.code ≠ 0#3 := fun h0 => hc (Cause.code_injective c .none h0)
    exact .inr (by simp [hcode])
  | answer => exact .inl ⟨rfl, rfl⟩
  | ldkey => exact .inl (by simp)
  | ldblk => exact .inl (by simp)
  | enc => exact .inl (by simp)

end Sys2Proof.Machine
end

section
/-! The commands NOP and RDST (45_system_commands.md R170, R171). -/

namespace Sys2Proof.Machine

/-- R25 on the data bus of R68: the fields of STATUS stand at the same bits of the 64-bit data. -/
theorem status_data_fields (st : BitVec 8) :
    (st.setWidth 64).getLsbD 0 = statusKV st ∧ (st.setWidth 64).getLsbD 1 = statusBV st ∧
      (st.setWidth 64).getLsbD 2 = statusOV st ∧ (st.setWidth 64).getLsbD 3 = statusERR st ∧
      (st.setWidth 64).extractLsb' 4 3 = statusCAUSE st ∧ (st.setWidth 64).getLsbD 7 = statusBit7 st := by
  have hbit {j : Nat} (hj : j < 64) : (st.setWidth 64).getLsbD j = st.getLsbD j := by simp [hj]
  refine ⟨hbit (by decide), hbit (by decide), hbit (by decide), hbit (by decide), ?_, hbit (by decide)⟩
  refine BitVec.eq_of_getLsbD_eq fun j hj => ?_
  rw [statusCAUSE, BitVec.getLsbD_extractLsb', BitVec.getLsbD_extractLsb', hbit (by omega)]

/-- Settles O43: NOP's one effect is its response, and the all-zero word has opcode 0. -/
theorem nopOnlyAnswers : Obligations.NopOnlyAnswers :=
  ⟨nop_good, decode_eq_of_fields (by decide) (by decide) (by decide)⟩

/-- R62, R171: the spec's word for RDST. -/
theorem decode_rdst : decode 0xA000000000000000000#76 = .rdst 0#8 0#64 :=
  decode_eq_of_fields (by decide) (by decide) (by decide)

/-- R171, the spec's example: RDST after LDKEY, LDBLK and ENC answers 0x07, and after a further LDBLK of 63 bits
0x3F. -/
theorem rdst_run_example (k b : BitVec 64) :
    ∃ t r1 r2 r3 r5, Host.Core.run Sys2Proof.core 6 (State.reset.sending
      [encode (.ldkey 48#8 k), encode (.ldblk 64#8 b), encode (.enc 0#8 0#64), 0xA000000000000000000#76,
        0x23F0000000000000000#76, 0xA000000000000000000#76]) = .next t ∧
    t.responses = [r1, r2, r3, 0x0080000000000000007#76, r5, 0x008000000000000003F#76] := by
  have hbad : decode 0x23F0000000000000000#76 = .ldblk 63#8 0#64 :=
    decode_eq_of_fields (by decide) (by decide) (by decide)
  have hloaded : okWord 8#8 ((setOV (setBV (setKV 0#8))).setWidth 64) = 0x0080000000000000007#76 := by decide
  have hfaulted : okWord 8#8 ((recordFault .lenBlock (setOV (setBV (setKV 0#8)))).setWidth 64) =
      0x008000000000000003F#76 := by decide
  obtain ⟨y, -, henc⟩ := run_enc 0#8 0#64
    (s := ((((State.reset.loadKey (k.extractLsb' 0 48)).answer 0#76).loadBlock b).answer 0#76)) (by simp) (by simp)
  rw [run_ldkey, run_ldblk, henc, run_rdst decode_rdst, run_ldblk_bad hbad (by decide), run_rdst decode_rdst,
    ← hloaded, ← hfaulted]
  exact ⟨_, 0#76, 0#76, okWord 64#8 y, faultWord .lenBlock, rfl, rfl⟩

/-- Settles O44: RDST's one effect is its response, whose data carries the fields of STATUS; the fault record never goes
back, by the inversion of a command's effect. -/
theorem rdstAnswersStatus : Obligations.RdstAnswersStatus := by
  refine ⟨fun len data s => ?_, ?_, rdst_run_example, fun i s t h => ?_, fun s => ⟨by simp, by simp⟩⟩
  · obtain ⟨hkv, hbv, hov, herr, hcause, h7⟩ := status_data_fields s.status
    exact ⟨rdst_good len data s, hkv, hbv, hov, herr, hcause, fun ⟨hok7, _⟩ => h7.trans hok7⟩
  · have hword : okWord 8#8 ((0#8).setWidth 64) = 0x0080000000000000000#76 := by decide
    rw [decode_rdst, ← hword]
    exact ⟨_, rdst_good _ _ _, rfl⟩
  · obtain ⟨herr, hcause⟩ | ⟨herr, hcause⟩ := (CommandEffect.of_exec h).fault_record
    · rw [herr, hcause]
      exact ⟨id, id⟩
    · exact ⟨fun _ => herr, fun _ => hcause⟩

end Sys2Proof.Machine
end

section
/-! Faults (60_exceptions.md): the order of the checks (R187), what a command that meets none of them does, and the block
after a fault (R188). -/

namespace Sys2Proof.Machine

open LayerF

/-- R61, R187: no check fails exactly if each of the three passes. -/
theorem firstFault_eq_none_iff {i : Instr} {s : State} :
    firstFault i s = none ↔
      i.op.toNat < 0xB ∧ (∀ n, neededLength i = some n → i.len.toNat = n) ∧ readsUnloaded i s = false := by
  have hlength : ((neededLength i).any fun n => i.len.toNat != n) = false ↔
      ∀ n, neededLength i = some n → i.len.toNat = n := by
    simp [Option.any_eq_false]
  rw [← hlength, firstFault]
  split_ifs with hop hlen hreads
  · simp [Nat.not_lt.mpr hop]
  · simp [hlen]
  · simp [hreads]
  · simpa [hlen, hreads] using hop

/-- R61, R181: the opcode is the first check. -/
theorem firstFault_of_reserved_op {i : Instr} (s : State) (h : 0xB ≤ i.op.toNat) :
    firstFault i s = some .illegalOp := if_pos h

/-- The checks see of the state the valid flags alone, which a fault keeps (R188 (a)). -/
@[simp] theorem firstFault_raiseFault (i : Instr) (s : State) (c : Cause) :
    firstFault i (s.raiseFault c) = firstFault i s := by
  have hreads : readsUnloaded i (s.raiseFault c) = readsUnloaded i s := by cases i <;> simp [readsUnloaded]
  simp only [firstFault, hreads]

/-- `u` has the valid flags of `s` and the contents of the registers that are loaded: all that a command other than
RDST can read. -/
structure State.ReadsAlike (s u : State) : Prop where
  kv : u.kv = s.kv
  bv : u.bv = s.bv
  ov : u.ov = s.ov
  key : s.kv = true → u.key = s.key
  block : s.bv = true → u.block = s.block
  out : s.ov = true → u.out = s.out

theorem State.ReadsAlike.refl (s : State) : s.ReadsAlike s := ⟨rfl, rfl, rfl, fun _ => rfl, fun _ => rfl, fun _ => rfl⟩

/-- R188 (a): a fault keeps all that a command can read but STATUS itself. -/
theorem State.ReadsAlike.raiseFault (c : Cause) (s : State) : s.ReadsAlike (s.raiseFault c) :=
  ⟨by simp, by simp, by simp, fun _ => rfl, fun _ => rfl, fun _ => rfl⟩

/-- 20_memory.md R48: the register writes of the commands, at most one to a command. -/
inductive RegisterWrite : (State → State) → Prop
  | none : RegisterWrite id
  | key (k : BitVec 48) : RegisterWrite (State.loadKey k)
  | block (b : BitVec 64) : RegisterWrite (State.loadBlock b)
  | out (y : BitVec 64) : RegisterWrite (State.writeOut y)

/-- R27: a register write gives no response and leaves the fault record. -/
theorem RegisterWrite.frame {f : State → State} (h : RegisterWrite f) (s : State) :
    (f s).responses = s.responses ∧ (f s).err = s.err ∧ (f s).cause = s.cause := by
  cases h <;> simp

/-- R188: after a fault a register write leaves the registers and valid flags that it leaves without the fault. -/
theorem RegisterWrite.raiseFault_registers {f : State → State} (h : RegisterWrite f) (c : Cause) (s : State) :
    (f (s.raiseFault c)).key = (f s).key ∧ (f (s.raiseFault c)).block = (f s).block ∧
      (f (s.raiseFault c)).out = (f s).out ∧ (f (s.raiseFault c)).kv = (f s).kv ∧
      (f (s.raiseFault c)).bv = (f s).bv ∧ (f (s.raiseFault c)).ov = (f s).ov := by
  cases h <;> simp

/-- R68: the response of the command `i` on success, with the result on the data bus. -/
def resultWord (i : Instr) (data : BitVec 64) : ResponseWord := okWord (BitVec.ofNat 8 (resultLength i)) data

theorem resultWord_fields (i : Instr) (data : BitVec 64) : rspErr (resultWord i data) = false ∧
    rspCause (resultWord i data) = 0#3 ∧ rspLen (resultWord i data) = BitVec.ofNat 8 (resultLength i) ∧
    rspData (resultWord i data) = data := okWord_fields _ _

theorem resultWord_empty {i : Instr} (h : resultLength i = 0) : resultWord i 0#64 = 0#76 := by
  rw [resultWord, h, zero_ok]

/-- In every state that reads like `s` the command `i` makes the register write `f` and answers a success of its result
length, whose data is the same in all of them unless `i` is RDST, which answers STATUS. -/
structure SucceedsAs (i : Instr) (s : State) (f : State → State) (data : BitVec 8 → BitVec 64) : Prop where
  write : RegisterWrite f
  exec_eq : ∀ u, s.ReadsAlike u → exec i u = .next ((f u).answer (resultWord i (data u.status)))
  data_const : (∀ len d, i ≠ .rdst len d) → ∀ x y, data x = data y

/-- R143: RF answers what the round function answers on its operand and KEY. -/
theorem rf_of_roundFunction {data : BitVec 64} {v : BitVec 32} {s : State} (hk : s.kv = true)
    (h : roundFunction Config.tables.val (ofReg (data.extractLsb' 0 32)) (ofReg s.key) = .ok (ofReg v)) :
    exec (.rf 32#8 data) s = .next (s.answer (okWord 32#8 (v.setWidth 64))) := by
  obtain ⟨y, hy, hexec⟩ := rf_good data s hk
  rwa [ofReg_ok_inj hy h] at hexec

/-- R61: a command that meets no failing check succeeds, and of the state it reads the valid flags and the loaded
registers, but for RDST. -/
theorem exec_success {i : Instr} {s : State} (h : firstFault i s = none) : ∃ f data, SucceedsAs i s f data := by
  obtain ⟨hop, hlen, hloaded⟩ := firstFault_eq_none_iff.mp h
  cases i with
  | nop l d =>
    exact ⟨id, fun _ => 0#64, .none, fun u _ => by rw [resultWord_empty rfl, nop_good, id], fun _ _ _ => rfl⟩
  | rdst l d =>
    exact ⟨id, fun st => st.setWidth 64, .none, fun u _ => rdst_good l d u, fun hne => absurd rfl (hne l d)⟩
  | ldkey l d =>
    obtain rfl : l = 48#8 := BitVec.eq_of_toNat_eq (hlen 48 rfl)
    refine ⟨_, fun _ => 0#64, .key (d.extractLsb' 0 48), fun u _ => ?_, fun _ _ _ => rfl⟩
    rw [resultWord_empty rfl, ldkey_good]
  | ldblk l d =>
    obtain rfl : l = 64#8 := BitVec.eq_of_toNat_eq (hlen 64 rfl)
    exact ⟨_, fun _ => 0#64, .block d, fun u _ => by rw [resultWord_empty rfl, ldblk_good], fun _ _ _ => rfl⟩
  | enc l d =>
    obtain ⟨hk, hb⟩ : s.kv = true ∧ s.bv = true := by simpa [readsUnloaded] using hloaded
    obtain ⟨y, hy, -⟩ := enc_good l d s hb hk
    refine ⟨_, fun _ => y, .out y, fun u hu => ?_, fun _ _ _ => rfl⟩
    rw [← hu.block hb, ← hu.key hk] at hy
    exact enc_of_encryptOneRound l d (hu.bv.trans hb) (hu.kv.trans hk) hy
  | rdout l d =>
    have ho : s.ov = true := by simpa [readsUnloaded] using hloaded
    exact ⟨id, fun _ => s.out, .none, fun u hu => hu.out ho ▸ rdout_good l d u (hu.ov.trans ho), fun _ _ _ => rfl⟩
  | exp l d =>
    obtain rfl : l = 32#8 := BitVec.eq_of_toNat_eq (hlen 32 rfl)
    obtain ⟨v, hv, -⟩ := exp_good d s
    exact ⟨id, fun _ => v.setWidth 64, .none, fun u _ => exp_of_expand u hv, fun _ _ _ => rfl⟩
  | mix l d =>
    obtain rfl : l = 48#8 := BitVec.eq_of_toNat_eq (hlen 48 rfl)
    have hk : s.kv = true := by simpa [readsUnloaded] using hloaded
    exact ⟨id, fun _ => (d.extractLsb' 0 48 ^^^ s.key).setWidth 64, .none,
      fun u hu => hu.key hk ▸ mix_good d u (hu.kv.trans hk), fun _ _ _ => rfl⟩
  | sub l d =>
    obtain rfl : l = 48#8 := BitVec.eq_of_toNat_eq (hlen 48 rfl)
    obtain ⟨v, hv, -⟩ := sub_good d s
    exact ⟨id, fun _ => v.setWidth 64, .none, fun u _ => sub_of_substitute u hv, fun _ _ _ => rfl⟩
  | prm l d =>
    obtain rfl : l = 32#8 := BitVec.eq_of_toNat_eq (hlen 32 rfl)
    obtain ⟨v, hv, -⟩ := prm_good d s
    exact ⟨id, fun _ => v.setWidth 64, .none, fun u _ => prm_of_finalPermute u hv, fun _ _ _ => rfl⟩
  | rf l d =>
    obtain rfl : l = 32#8 := BitVec.eq_of_toNat_eq (hlen 32 rfl)
    have hk : s.kv = true := by simpa [readsUnloaded] using hloaded
    obtain ⟨v, hv, -⟩ := rf_good d s hk
    refine ⟨id, fun _ => v.setWidth 64, .none, fun u hu => ?_, fun _ _ _ => rfl⟩
    rw [← hu.key hk] at hv
    exact rf_of_roundFunction (hu.kv.trans hk) hv
  | reservedB | reservedC | reservedD | reservedE | reservedF => simp [Instr.op] at hop

/-- R68: a result length fits in the response's `len` field. -/
theorem resultLength_toNat (i : Instr) : (BitVec.ofNat 8 (resultLength i)).toNat = resultLength i := by
  cases i <;> rfl

/-- Settles O12: a failing check is the fault it names; with none the command makes its register write and answers. -/
theorem firstFailingCheckIsTheCause : Obligations.FirstFailingCheckIsTheCause := by
  refine ⟨fun i s c => exec_of_firstFault, fun i s h => ?_, mix_bad _ _ (by decide), rf_unloaded _ _ (by decide)⟩
  obtain ⟨f, data, hsucc⟩ := exec_success h
  obtain ⟨hresponses, herr, hcause⟩ := hsucc.write.frame s
  refine ⟨_, _, data s.status, hsucc.exec_eq s (.refl s), ?_, resultLength_toNat i, herr, hcause⟩
  rw [State.answer_responses, hresponses, resultWord]

/-- Settles O8: the opcode is the first check, and the word's `op` is the decoded command's. -/
theorem reservedOpcodesRaiseIllegalOp : Obligations.ReservedOpcodesRaiseIllegalOp := by
  refine ⟨fun w s h => ?_, fun len data s => ⟨rfl, rfl, rfl, rfl, rfl⟩, rfl⟩
  rw [← (decode_fields w).1] at h
  exact exec_of_firstFault (firstFault_of_reserved_op s h)

/-- Settles O56: the valid-flag check of each command that reads a register. -/
theorem unloadedRegisterIsAFault : Obligations.UnloadedRegisterIsAFault :=
  ⟨fun len data s => ⟨enc_unloaded len data s, mix_unloaded data s, rf_unloaded data s, rdout_unloaded len data s⟩, rfl⟩

/-- Settles O57: the fault entry's fields; a response with err 1 is a fault entry; and after a fault the checks find
the flags as they were, so that the command faults as before or makes the same register write. -/
theorem faultEntryRecordsAndAnswers : Obligations.FaultEntryRecordsAndAnswers := by
  refine ⟨fun s c => ?_, fun i s t w h hw herr => ?_, fun i s c => ⟨firstFault_raiseFault i s c, ?_⟩,
    fun i s t c ht => ?_⟩
  · refine ⟨rfl, rfl, rfl, by simp, by simp, by simp, by simp, by simp, by simp, rfl, rfl, ?_⟩
    exact ⟨faultWord c, rfl, faultWord_fields c⟩
  · obtain ⟨c, -, hc, ht⟩ := (CommandEffect.of_exec h).eq_raiseFault hw herr
    exact ⟨c, hc, ht⟩
  · obtain ⟨t, ht, -⟩ := exec_effect i (s.raiseFault c)
    exact ⟨t, ht⟩
  · cases hcheck : firstFault i s with
    | some c' =>
      obtain rfl : s.raiseFault c' = t := by simpa [exec_of_firstFault hcheck] using ht
      have hu := exec_of_firstFault ((firstFault_raiseFault i s c).trans hcheck)
      exact ⟨_, faultWord c', faultWord c', hu, by simp [faultWord_fields]⟩
    | none =>
      obtain ⟨f, data, hsucc⟩ := exec_success hcheck
      obtain rfl := Host.Outcome.next.inj ((hsucc.exec_eq s (.refl s)).symm.trans ht)
      have hu := hsucc.exec_eq (s.raiseFault c) (.raiseFault c s)
      obtain ⟨hkey, hblock, hout, hkv, hbv, hov⟩ := hsucc.write.raiseFault_registers c s
      obtain ⟨hresponses, -, -⟩ := hsucc.write.frame s
      obtain ⟨hresponses', herr, hcause⟩ := hsucc.write.frame (s.raiseFault c)
      refine ⟨_, resultWord i (data s.status), resultWord i (data (s.raiseFault c).status), hu, hkey, hblock, hout, hkv,
        hbv, hov, ?_, ?_, ?_, ?_, ?_, fun hne => ?_, ?_, ?_, ?_⟩
      · rw [State.answer_responses, hresponses]
      · rw [State.answer_responses, hresponses']
      · simp [resultWord_fields]
      · simp [resultWord_fields]
      · simp [resultWord_fields]
      · rw [hsucc.data_const hne]
      · simp [herr]
      · simp [resultWord_fields]
      · simp [hcause]

end Sys2Proof.Machine
end

section
/-! The command word as the pair of encoder and decoder (30_encoding.md R60, R62, R69). -/

namespace Sys2Proof

/-- R60: a word is its three fields put together again. -/
theorem makeWord_of_fields (w : CommandWord) : makeWord (wordOp w) (wordLen w) (wordData w) = w := by
  rw [makeWord, wordOp, wordLen, wordData, BitVec.extractLsb'_append_extractLsb'_eq_extractLsb' (by rfl),
    BitVec.extractLsb'_append_extractLsb'_eq_extractLsb' (by rfl), BitVec.extractLsb'_eq_self]

/-- R62: a word's decoded command has the word as its code. -/
@[simp] theorem encode_decode (w : CommandWord) : encode (decode w) = w := by
  obtain ⟨hop, hlen, hdata⟩ := decode_fields w
  rw [encode, hop, hlen, hdata, makeWord_of_fields]

/-- Settles O1: the fields of a command's word name the command, and the fields of a word make the word. -/
theorem encodingIsABijection : Obligations.EncodingIsABijection := ⟨decode_encode, encode_decode⟩

/-- Settles O3: the fields of each of the thirteen words. -/
theorem writtenOutWordsDecode : Obligations.WrittenOutWordsDecode := by
  unfold Obligations.WrittenOutWordsDecode
  and_intros <;> exact decode_eq_of_fields (by decide) (by decide) (by decide)

/-- Log 12: a command word's number is read as the word. -/
theorem commandWord_toNat (w : CommandWord) : commandWord w.toNat = .ok w := by
  rw [commandWord, if_pos w.isLt, BitVec.ofNat_toNat, BitVec.setWidth_eq]

/-- Log 12. -/
theorem commandWord_too_large {x : Nat} (h : 2 ^ 76 ≤ x) : commandWord x = .error .notACommandWord :=
  if_neg (Nat.not_lt.mpr h)

/-- Settles O4: the two cases of the range test. -/
theorem numbersBeyondAWordAreRejected : Obligations.NumbersBeyondAWordAreRejected :=
  ⟨fun w => by rw [decodeNumber, commandWord_toNat], fun x hx => by rw [decodeNumber, commandWord_too_large hx]⟩

end Sys2Proof
end

section
/-! What a step of the machine can do, said once (30_encoding.md R61, 70_reset_and_hazards.md R210), and the run of all
the host's moves (00_scope.md R19). -/

namespace Sys2Proof.Machine

/-- R61. -/
theorem step_command {s : State} {w : CommandWord} {rest : List HostEvent} (h : s.host = .command w :: rest) :
    step s = exec (decode w) { s with host := rest } := by rw [step, h]

/-- R210. -/
theorem step_reset {s : State} {rest : List HostEvent} (h : s.host = .reset :: rest) :
    step s = .next ({ s with host := rest }).hostReset := by rw [step, h]

/-- Log 11. -/
theorem step_idle {s : State} (h : s.host = []) : step s = .next s := by rw [step, h]

/-- Settles O10. -/
theorem stepRunsTheDecodedCommand : Obligations.StepRunsTheDecodedCommand := fun _ _ _ => step_command

/-- Settles O11: the reset and the step with no move, each with its fields. -/
theorem stepOfResetAndOfNoMove : Obligations.StepOfResetAndOfNoMove :=
  ⟨fun _ _ h => ⟨_, step_reset h, rfl, rfl, rfl⟩, fun _ => step_idle⟩

/-- Everything a step can do to a state, one case for each kind of move. -/
inductive StepEffect (s : State) : State → Prop
  | idle (h : s.host = []) : StepEffect s s
  | command {w : CommandWord} {rest : List HostEvent} {t : State} (h : s.host = .command w :: rest)
      (effect : CommandEffect { s with host := rest } (decode w) t) : StepEffect s t
  | reset {rest : List HostEvent} (h : s.host = .reset :: rest) : StepEffect s ({ s with host := rest }).hostReset

/-- Every step ends in a next state, and in one of these ways. -/
theorem step_effect (s : State) : ∃ t, step s = .next t ∧ StepEffect s t := by
  cases h : s.host with
  | nil => exact ⟨s, step_idle h, .idle h⟩
  | cons move rest =>
    cases move with
    | command w =>
      obtain ⟨t, ht, effect⟩ := exec_effect (decode w) { s with host := rest }
      exact ⟨t, (step_command h).trans ht, .command h effect⟩
    | reset => exact ⟨_, step_reset h, .reset h⟩

/-- The inversion of `step_effect`. -/
theorem StepEffect.of_step {s t : State} (h : step s = .next t) : StepEffect s t := by
  obtain ⟨u, hu, effect⟩ := step_effect s
  obtain rfl : u = t := Host.Outcome.next.inj (hu.symm.trans h)
  exact effect

/-- R180: the code of a cause that is recorded is the code of one of the six. -/
theorem Cause.code_mem {c : Cause} (h : c ≠ .none) :
    c.code ∈ [Cause.illegalOp.code, Cause.lenXor.code, Cause.lenBlock.code, Cause.lenHalf.code, Cause.lenStage.code,
      Cause.notLoaded.code] := by
  cases c <;> simp at h ⊢

/-- Settles O13: the one response of a command's effect is a fault's word, whose cause is one of the six, or a
success; and every step has an effect. -/
theorem everyCommandAnswers : Obligations.EveryCommandAnswers := by
  refine ⟨fun w s => ?_, fun s => ?_⟩
  · obtain ⟨t, ht, effect⟩ := exec_effect (decode w) s
    obtain ⟨r, hr, ⟨c, hc, rfl⟩ | ⟨len, data, rfl, -⟩⟩ := effect.response
    · exact ⟨t, _, ht, hr, fun _ => by simpa only [faultWord_fields] using Cause.code_mem hc⟩
    · exact ⟨t, _, ht, hr, by simp [okWord_fields]⟩
  · obtain ⟨t, ht, -⟩ := step_effect s
    exact ⟨t, ht⟩

/-- Settles O14, by induction on the host's moves: each step takes one off, a command answers once and a reset not at
all. -/
theorem runAnswersEachCommandOnce : Obligations.RunAnswersEachCommandOnce := by
  intro s
  induction hmoves : s.host generalizing s with
  | nil => exact ⟨s, [], rfl, hmoves, by simp, rfl⟩
  | cons move rest ih =>
    cases move with
    | command w =>
      obtain ⟨u, hu, effect⟩ := exec_effect (decode w) { s with host := rest }
      obtain ⟨hhost, -, r, hr⟩ := effect.frame
      obtain ⟨t, rs, hrun, hdone, hrs, hcount⟩ := ih u hhost
      exact ⟨t, r :: rs, (run_next ((step_command hmoves).trans hu)).trans hrun, hdone, by simp [hrs, hr],
        by simp [hcount, commandCount]⟩
    | reset =>
      obtain ⟨t, rs, hrun, hdone, hrs, hcount⟩ := ih ({ s with host := rest }).hostReset rfl
      exact ⟨t, rs, (run_next (step_reset hmoves)).trans hrun, hdone, hrs, hcount⟩

end Sys2Proof.Machine
end

section
/-! What the commands keep (10_state.md R25 to R27, R31; 60_exceptions.md R180, R189): the fault record, the registers'
one writer each, and the invariant of STATUS and of the responses. -/

namespace Sys2Proof.Machine

/-- R27: a command whose response has err 0 leaves ERR and CAUSE as they were. -/
theorem CommandEffect.record_of_success {i : Instr} {s t : State} {w : ResponseWord} (h : CommandEffect s i t)
    (hw : t.responses = s.responses ++ [w]) (hok : rspErr w = false) : t.err = s.err ∧ t.cause = s.cause := by
  cases h with
  | fault _ c =>
    obtain rfl : faultWord c = w := by simpa using hw
    simp [faultWord_fields] at hok
  | _ => simp

/-- R27: a command whose response has err 1 records the response's cause, which is not 0. -/
theorem CommandEffect.record_of_fault {i : Instr} {s t : State} {w : ResponseWord} (h : CommandEffect s i t)
    (hw : t.responses = s.responses ++ [w]) (herr : rspErr w = true) :
    t.err = true ∧ t.cause = rspCause w ∧ t.cause ≠ 0#3 := by
  obtain ⟨c, -, hc, rfl⟩ := h.eq_raiseFault hw herr
  obtain rfl : faultWord c = w := by simpa using hw
  have hcode : c.code ≠ 0#3 := fun h0 => hc (Cause.code_injective c .none h0)
  simp [faultWord_fields, hcode]

/-- Settles O18: a command leaves the fault record or records its own fault, and its response tells which. -/
theorem faultRecordIsSticky : Obligations.FaultRecordIsSticky := by
  intro i s t h
  have effect := CommandEffect.of_exec h
  refine ⟨?_, fun w hw => ⟨effect.record_of_fault hw, effect.record_of_success hw⟩, ?_⟩
  all_goals
    obtain ⟨herr, hcause⟩ | ⟨herr, -⟩ := effect.fault_record
    · simp [herr, hcause]
    · simp [herr]

/-- Settles O19, by the cases of a command's effect: each writes at most one of the three registers. -/
theorem eachRegisterHasOneWriter : Obligations.EachRegisterHasOneWriter := by
  intro i s t h
  have effect := CommandEffect.of_exec h
  obtain ⟨hhost, hresets, -⟩ := effect.frame
  refine ⟨fun hkey => ?_, fun hblock => ?_, fun hout => ?_, hhost, hresets⟩
  · cases effect with
    | ldkey data => exact ⟨data, rfl, rfl⟩
    | _ => exact absurd rfl hkey
  · cases effect with
    | ldblk data => exact ⟨data, rfl, rfl⟩
    | _ => exact absurd rfl hblock
  · cases effect with
    | enc len data _ hk hb => exact ⟨len, data, rfl, hk, hb⟩
    | _ => exact absurd rfl hout

/-- R31: with STATUS 0 every field of it is 0. -/
theorem State.fields_of_status_zero {s : State} (h : s.status = 0#8) :
    s.kv = false ∧ s.bv = false ∧ s.ov = false ∧ s.err = false ∧ s.cause = 0#3 ∧ statusBit7 s.status = false := by
  simp [State.kv, State.bv, State.ov, State.err, State.cause, h, statusKV, statusBV, statusOV, statusERR, statusCAUSE,
    statusBit7]

/-- Settles O20: every reset leaves STATUS 0, and with the valid flags 0 the four commands fault. -/
theorem resetLeavesRegistersUnreadable : Obligations.ResetLeavesRegistersUnreadable := by
  intro s hs
  have hstatus : s.status = 0#8 := by obtain rfl | ⟨u, rfl⟩ := hs <;> rfl
  obtain ⟨hkv, hbv, hov, herr, hcause, h7⟩ := State.fields_of_status_zero hstatus
  exact ⟨hkv, hbv, hov, herr, hcause, h7, fun len data => ⟨enc_unloaded len data s (.inl hkv),
    rdout_unloaded len data s hov, mix_unloaded data s hkv, rf_unloaded data s hkv⟩⟩

/-- R31: STATUS 0 meets the invariant of STATUS. -/
theorem State.statusOk_of_status_zero {s : State} (h : s.status = 0#8) : s.StatusOk := by
  obtain ⟨-, -, hov, herr, hcause, h7⟩ := State.fields_of_status_zero h
  simp [State.StatusOk, hov, herr, hcause, h7]

/-- Settles O22: STATUS is 0 and nothing has been answered. -/
theorem resetMeetsTheInvariant : Obligations.ResetMeetsTheInvariant :=
  ⟨State.statusOk_of_status_zero rfl, by simp [State.reset]⟩

/-- R68, R189: the word of a fault with a cause is a response the block can give. -/
theorem responseOk_faultWord {c : Cause} (h : c ≠ .none) : ResponseOk (faultWord c) := by
  obtain ⟨herr, hcause, hlen, hdata⟩ := faultWord_fields c
  simp [ResponseOk, herr, hcause, hlen, hdata, c.code_range h]

/-- R68: the result lengths. -/
theorem resultLength_mem (i : Instr) : resultLength i ∈ [0, 8, 32, 48, 64] := by
  cases i <;> simp [resultLength]

/-- R68: a success with the command's result length and no bit at or above it is a response the block can give. -/
theorem responseOk_okWord {i : Instr} {len : BitVec 8} {data : BitVec 64} (hl : len.toNat = resultLength i)
    (hd : data.toNat < 2 ^ resultLength i) : ResponseOk (okWord len data) := by
  obtain ⟨herr, hcause, hlen, hdata⟩ := okWord_fields len data
  rw [ResponseOk, herr, hcause, hlen, hdata, hl]
  exact ⟨fun _ => ⟨rfl, resultLength_mem i, hd⟩, by simp⟩

/-- R25 to R27: each effect of a command keeps the invariant of STATUS: a fault records a cause from 1 to 6, and OV is
set under KV and BV. -/
theorem CommandEffect.keeps_statusOk {i : Instr} {s t : State} (h : CommandEffect s i t) (hs : s.StatusOk) :
    t.StatusOk := by
  obtain ⟨h7, hnot7, herr, hov⟩ := hs
  cases h with
  | fault _ c _ hc =>
    have hcode : c.code ≠ 7#3 ∧ c.code ≠ 0#3 := by cases c <;> simp [Cause.code] at hc ⊢
    simpa [State.StatusOk, h7, hcode] using hov
  | answer => exact ⟨h7, hnot7, herr, hov⟩
  | ldkey => simpa [State.StatusOk, h7, hnot7, herr] using fun h => (hov h).2
  | ldblk => simpa [State.StatusOk, h7, hnot7, herr] using fun h => (hov h).1
  | enc _ _ _ hk hb => simp [State.StatusOk, h7, hnot7, herr, hk, hb]

/-- Each effect of a command keeps the invariant. -/
theorem CommandEffect.keeps_inv {i : Instr} {s t : State} (h : CommandEffect s i t) (hs : s.Inv) : t.Inv := by
  obtain ⟨hstatus, hresponses⟩ := hs
  obtain ⟨r, hr, hkind⟩ := h.response
  have hok : ResponseOk r := by
    obtain ⟨c, hc, rfl⟩ | ⟨len, data, rfl, hl, hd⟩ := hkind
    · exact responseOk_faultWord hc
    · exact responseOk_okWord hl hd
  refine ⟨h.keeps_statusOk hstatus, fun w hw => ?_⟩
  obtain hw | rfl : w ∈ s.responses ∨ w = r := by simpa [hr] using hw
  · exact hresponses w hw
  · exact hok

/-- Settles O21, by the cases of a step: no move changes nothing, a command keeps the invariant by its effect, and a
reset clears STATUS and answers nothing. -/
theorem stepKeepsTheInvariant : Obligations.StepKeepsTheInvariant := by
  intro s t hs h
  cases StepEffect.of_step h with
  | idle => exact hs
  | command _ effect => exact effect.keeps_inv hs
  | reset =>
    obtain ⟨-, hresponses⟩ := hs
    exact ⟨State.statusOk_of_status_zero rfl, hresponses⟩

end Sys2Proof.Machine
end

section
/-! Registers not loaded since the last reset reach no response (10_state.md R31, 70_reset_and_hazards.md section 1):
two states that agree on STATUS and on the loaded registers go through every step together. -/

namespace Sys2Proof.Machine

/-- The checks see of the state its STATUS alone. -/
theorem firstFault_congr (i : Instr) {s t : State} (h : s.status = t.status) : firstFault i s = firstFault i t := by
  have hreads : readsUnloaded i s = readsUnloaded i t := by
    cases i <;> simp [readsUnloaded, State.kv, State.bv, State.ov, h]
  simp only [firstFault, hreads]

section
variable {s t : State} (h : s.AgreeOnLoaded t)
include h

theorem State.AgreeOnLoaded.readsAlike : s.ReadsAlike t := by
  obtain ⟨hstatus, -, -, hkey, hblock, hout⟩ := h
  exact ⟨congrArg statusKV hstatus.symm, congrArg statusBV hstatus.symm, congrArg statusOV hstatus.symm,
    fun hk => (hkey hk).symm, fun hb => (hblock hb).symm, fun ho => (hout ho).symm⟩

theorem State.AgreeOnLoaded.answer (w : ResponseWord) : (s.answer w).AgreeOnLoaded (t.answer w) := by
  obtain ⟨hstatus, hhost, hresponses, hregs⟩ := h
  exact ⟨hstatus, hhost, by simp [hresponses], hregs⟩

/-- A register that is written agrees from then on, and the others agree as before. -/
theorem State.AgreeOnLoaded.write {f : State → State} (hf : RegisterWrite f) : (f s).AgreeOnLoaded (f t) := by
  obtain ⟨hstatus, hhost, hresponses, hkey, hblock, hout⟩ := h
  cases hf <;> simp_all [State.AgreeOnLoaded]

theorem State.AgreeOnLoaded.raiseFault (c : Cause) : (s.raiseFault c).AgreeOnLoaded (t.raiseFault c) := by
  obtain ⟨hstatus, hhost, hresponses, hkey, hblock, hout⟩ := h
  simp_all [State.AgreeOnLoaded]

/-- After a reset no register is loaded, so that the contents it leaves need not agree. -/
theorem State.AgreeOnLoaded.hostReset : s.hostReset.AgreeOnLoaded t.hostReset := by
  obtain ⟨-, hhost, hresponses, -⟩ := h
  simp [State.AgreeOnLoaded, hhost, hresponses]

theorem State.AgreeOnLoaded.withHost (moves : List HostEvent) :
    State.AgreeOnLoaded { s with host := moves } { t with host := moves } := by
  obtain ⟨hstatus, -, hresponses, hregs⟩ := h
  exact ⟨hstatus, rfl, hresponses, hregs⟩

/-- A command meets the same checks in both states; it takes the same fault in both, or makes the same register write
and gives the same response. -/
theorem State.AgreeOnLoaded.exec (i : Instr) :
    ∃ s' t', Machine.exec i s = .next s' ∧ Machine.exec i t = .next t' ∧ s'.AgreeOnLoaded t' := by
  have hstatus : s.status = t.status := h.1
  have hsame := firstFault_congr i hstatus
  cases hcheck : firstFault i s with
  | some c => exact ⟨_, _, exec_of_firstFault hcheck, exec_of_firstFault (hsame.symm.trans hcheck), h.raiseFault c⟩
  | none =>
    obtain ⟨f, data, hsucc⟩ := exec_success hcheck
    refine ⟨_, _, hsucc.exec_eq s (.refl s), hsucc.exec_eq t h.readsAlike, ?_⟩
    rw [hstatus]
    exact (h.write hsucc.write).answer _

theorem State.AgreeOnLoaded.step :
    ∃ s' t', Machine.step s = .next s' ∧ Machine.step t = .next t' ∧ s'.AgreeOnLoaded t' := by
  have hhost : s.host = t.host := h.2.1
  cases hmoves : t.host with
  | nil => exact ⟨s, t, step_idle (hhost.trans hmoves), step_idle hmoves, h⟩
  | cons move rest =>
    cases move with
    | command w =>
      rw [step_command (hhost.trans hmoves), step_command hmoves]
      exact (h.withHost rest).exec (decode w)
    | reset => exact ⟨_, _, step_reset (hhost.trans hmoves), step_reset hmoves, (h.withHost rest).hostReset⟩

end

/-- Settles O23, by induction on the number of steps. -/
theorem unloadedContentsAreUnobservable : Obligations.UnloadedContentsAreUnobservable := by
  intro n
  induction n with
  | zero => exact fun s t h => ⟨s, t, rfl, rfl, h⟩
  | succ n ih =>
    intro s t h
    obtain ⟨s', t', hs, ht, h'⟩ := h.step
    rw [run_next hs, run_next ht]
    exact ih s' t' h'

end Sys2Proof.Machine
end

section
/-! The laws of `xor`, `toBinary` and `permute` over vectors (40_bitvector_utilities.md, 41_permutation.md section 1).
Vectors of one length are registers of one width (`as_reg`), on which `xor` is the bitwise exclusive-or. -/

namespace Sys2Proof.LayerF

/-- R81. -/
theorem xor_bad {a b : Bits} (h : a.length ≠ b.length) : xor a b = .error .lengthError := if_neg h

/-- R81: element `p` of the result is 1 exactly where the two elements differ. -/
theorem xor_get {a b v : Bits} {p : Nat} {x y : Bool} (h : xor a b = .ok v) (hx : a[p]? = some x)
    (hy : b[p]? = some y) : v[p]? = some (x != y) := by
  rw [xor_ok (xor_length h).1] at h
  obtain rfl := Except.ok.inj h
  simp [List.getElem?_zipWith, hx, hy]

/-- Settles O26: the length test, the elements, and the number read off the registers that the two vectors are. -/
theorem xorOfVectors : Obligations.XorOfVectors := by
  refine ⟨fun a b h => xor_bad h, fun a b h => ?_, rfl⟩
  obtain ⟨n, hb⟩ : ∃ n, b.length = n := ⟨_, rfl⟩
  obtain ⟨x, rfl⟩ := as_reg (h.trans hb)
  obtain ⟨y, rfl⟩ := as_reg hb
  have hxor := xor_ofReg x y
  exact ⟨_, hxor, (xor_length hxor).2, fun p _ _ => xor_get hxor, by simp⟩

/-- Settles O27: on registers of one width the laws are those of the bitwise exclusive-or. -/
theorem xorLaws : Obligations.XorLaws := by
  intro a b c hab hbc
  obtain ⟨n, hc⟩ : ∃ n, c.length = n := ⟨_, rfl⟩
  obtain ⟨x, rfl⟩ := as_reg (hab.trans (hbc.trans hc))
  obtain ⟨y, rfl⟩ := as_reg (hbc.trans hc)
  obtain ⟨z, rfl⟩ := as_reg hc
  simp only [ofReg_length, zeros_reg, xor_ofReg, Except.bind]
  exact ⟨by rw [BitVec.xor_comm], by rw [BitVec.xor_self], by rw [BitVec.xor_assoc], by rw [BitVec.xor_zero],
    by rw [BitVec.xor_assoc, BitVec.xor_self, BitVec.xor_zero]⟩

/-- Settles O29: `toBinary` answers the vector that spells the value, and refuses one that does not fit. -/
theorem binaryInvertsDecimal : Obligations.BinaryInvertsDecimal := by
  refine ⟨fun value width h => ⟨_, toBinary_ok h, vec_length _ _, fun p hp => ?_, val_vec _ _ h⟩, fun v => ?_,
    fun value width h => if_neg (Nat.not_lt.mpr h)⟩
  · rw [vec_get _ _ _ hp, Nat.testBit_eq_decide_div_mod_eq]
    rfl
  · rw [toDecimal, toBinary_ok (val_lt v), vec_val]

/-- R9, R81. -/
theorem element_xor {a b v : Bits} {i : Nat} {x y : Bool} (h : xor a b = .ok v) (hx : element a i = some x)
    (hy : element b i = some y) : element v i = some (x ^^ y) := by
  cases i with
  | zero => simp [element] at hx
  | succ p => exact xor_get h hx hy

/-- The elements of an exclusive-or that a table names are the exclusive-ors of those it names in the two vectors. -/
theorem map_element_xor {a b v pa pb : Bits} {table : List Nat} (h : xor a b = .ok v)
    (ha : table.map (element a) = pa.map some) (hb : table.map (element b) = pb.map some) :
    table.map (element v) = (List.zipWith (fun x y => x ^^ y) pa pb).map some := by
  induction table generalizing pa pb with
  | nil =>
    obtain rfl : pa = [] := by simpa using ha.symm
    rfl
  | cons i table ih =>
    cases pa with
    | nil => simp at ha
    | cons x pa =>
      cases pb with
      | nil => simp at hb
      | cons y pb =>
        obtain ⟨hx, ha⟩ : element a i = some x ∧ table.map (element a) = pa.map some := by simpa using ha
        obtain ⟨hy, hb⟩ : element b i = some y ∧ table.map (element b) = pb.map some := by simpa using hb
        simp [element_xor h hx hy, ih ha hb]

/-- R100: an answer of `permute` has the table's length. -/
theorem permute_length {v out : Bits} {table : List Nat} (h : permute v table = .ok out) :
    out.length = table.length := by
  simpa using (congrArg List.length (permute_eq_ok_iff.1 h).2).symm

/-- R81, R100: the permuted exclusive-or is the exclusive-or of the permuted vectors. -/
theorem permute_xor {a b v pa pb : Bits} {table : List Nat} (hv : xor a b = .ok v) (ha : permute a table = .ok pa)
    (hb : permute b table = .ok pb) : permute v table = xor pa pb := by
  obtain ⟨hmax, hpa⟩ := permute_eq_ok_iff.1 ha
  obtain ⟨-, hpb⟩ := permute_eq_ok_iff.1 hb
  rw [xor_ok ((permute_length ha).trans (permute_length hb).symm), permute_eq_ok_iff, (xor_length hv).2]
  exact ⟨hmax, map_element_xor hv hpa hpb⟩

/-- Settles O32: the general law for an exclusive-or that is answered, and the constant inputs. -/
theorem permuteIsLinear : Obligations.PermuteIsLinear := by
  intro a b table hab h
  obtain ⟨pa, ha, -⟩ := permute_spec h
  obtain ⟨pb, hb, -⟩ := permute_spec (v := b) fun i hi => hab ▸ h i hi
  refine ⟨?_, fun c => permute_replicate c h⟩
  rw [ha, hb, xor_ok hab]
  exact permute_xor (xor_ok hab) ha hb

end Sys2Proof.LayerF
end

section
/-! The two permutation units (41_permutation.md sections 2, 3): the output permutation loses nothing, and the groups
of the default expander. -/

namespace Sys2Proof.LayerF

/-- R101: every position of the input is named by one of the P-ROM. -/
theorem exists_pTable_entry (T : Config.TableConfig) {q : Nat} (hq : q < 32) :
    ∃ p : Nat, T.val.pTable[p]? = some (q + 1) :=
  List.mem_iff_getElem?.1 ((pTable_perm T).mem_iff.2 (List.mem_range'_1.2 (by omega)))

/-- 41_permutation.md section 3: the output permutation is one-to-one, since each position of the input is read. -/
theorem finalPermute_inj (T : Config.TableConfig) {a b : Bits} (ha : a.length = 32) (hb : b.length = 32)
    (h : finalPermute T.val a = finalPermute T.val b) : a = b := by
  obtain ⟨v, hv, -, hva⟩ := finalPermute_ok T ha
  obtain ⟨w, hw, -, hwb⟩ := finalPermute_ok T hb
  obtain rfl : v = w := Except.ok.inj (hv.symm.trans (h.trans hw))
  refine bits_ext (ha.trans hb.symm) fun q hq => ?_
  obtain ⟨p, hp⟩ := exists_pTable_entry T (ha ▸ hq)
  exact (hva p _ hp).symm.trans (hwb p _ hp)

/-- 41_permutation.md section 3: the output permutation is onto, being one-to-one on the finitely many 32-bit
registers. -/
theorem finalPermute_onto (T : Config.TableConfig) (y : BitVec 32) :
    ∃ x : BitVec 32, finalPermute T.val (ofReg x) = .ok (ofReg y) := by
  have answers (x : BitVec 32) : ∃ z : BitVec 32, finalPermute T.val (ofReg x) = .ok (ofReg z) := by
    obtain ⟨v, hv, hl, -⟩ := finalPermute_ok T (ofReg_length x)
    exact Machine.result_reg hv hl
  choose f hf using answers
  have hinj : Function.Injective f := fun x x' h =>
    ofReg_inj (finalPermute_inj T (ofReg_length x) (ofReg_length x') (by rw [hf, hf, h]))
  obtain ⟨x, rfl⟩ := Finite.surjective_of_injective hinj y
  exact ⟨x, hf x⟩

/-- Settles O33: one-to-one, onto, and a rearrangement of the input. -/
theorem outputPermutationIsABijection : Obligations.OutputPermutationIsABijection := by
  refine fun T => ⟨fun _ _ => finalPermute_inj T, fun y hy => ?_, fun _ _ h => (finalPermute_perm T h).count_eq true⟩
  obtain ⟨y, rfl⟩ := as_reg hy
  obtain ⟨x, hx⟩ := finalPermute_onto T y
  exact ⟨_, ofReg_length x, hx⟩

/-- R104, the default expansion table by groups. -/
theorem eTableDefault_entry : ∀ g < 8, ∀ k < 6,
    Config.eTableDefault[6 * g + k]? = some ((4 * g + k + 31) % 32 + 1) := by decide

/-- Settles O34: each position of the expander's answer is the one that its entry of the default table names. -/
theorem expanderGroupsAreNibblesWithNeighbours : Obligations.ExpanderGroupsAreNibblesWithNeighbours := by
  intro r hr
  obtain ⟨x, hx, -, hget⟩ := expand_ok Config.tables hr
  exact ⟨x, hx, fun g hg k hk => hget _ _ (eTableDefault_entry g hg k hk)⟩

end Sys2Proof.LayerF
end

section
/-! The lanes of the substitution engine (42_substitution.md): group `g` of the input and the four bits that lane `g`
answers. -/

namespace Sys2Proof.LayerF

/-- R125. -/
theorem group_eq (m : Bits) (g : Nat) : group m g = (m.drop (6 * g)).take 6 := by
  rw [group, slice, Nat.add_sub_cancel_left]

theorem substitute_bad (T : Config.Tables) {m : Bits} (h : m.length ≠ 48) : substitute T m = .error .lengthError :=
  if_neg h

/-- R128: an answer of the substitution holds, at positions `4g .. 4g+3`, what lane `g` answers on group `g`. -/
theorem substitute_lookup (T : Config.TableConfig) {m y : Bits} (h : substitute T.val m = .ok y) {g : Nat}
    (hg : g < 8) : sboxLookup T.val g (group m g) = .ok ((y.drop (4 * g)).take 4) := by
  have hm : m.length = 48 := by
    by_contra hne
    simp [substitute_bad T.val hne] at h
  obtain ⟨v, hv, -, hlane⟩ := substitute_ok T hm
  obtain rfl : v = y := Except.ok.inj (hv.symm.trans h)
  rw [hlane g hg, slice, Nat.add_sub_cancel_left]

/-- Settles O36: a lane reads its group alone. -/
theorem lanesAreIndependent : Obligations.LanesAreIndependent := by
  intro T m m' y y' g hg hy hy' hgroup
  have hlane := substitute_lookup T hy hg
  rw [hgroup, substitute_lookup T hy' hg] at hlane
  exact (Except.ok.inj hlane).symm

/-- A hexadecimal digit of a 32-bit register is its field of four bits. -/
theorem hexDigit_toNat (v : BitVec 32) {g : Nat} (hg : g < 8) :
    v.toNat / 16 ^ (7 - g) % 16 = (v.extractLsb' (28 - 4 * g) 4).toNat := by
  have hpow : 16 ^ (7 - g) = 2 ^ (28 - 4 * g) := by
    rw [show 28 - 4 * g = 4 * (7 - g) by omega, pow_mul]
    rfl
  rw [BitVec.extractLsb'_toNat, Nat.shiftRight_eq_div_pow, hpow]

/-- Settles O35: over registers, lane `g` of the answer is the S-ROM entry of the group's row and column, whose digits
are the four bits of the lane. -/
theorem substituteLooksUpEachGroup : Obligations.SubstituteLooksUpEachGroup := by
  refine fun T m => ⟨substitute_bad T.val, fun hm => ?_⟩
  obtain ⟨y, hy, hl, -⟩ := substitute_ok T hm
  refine ⟨y, hy, hl, fun g x0 x1 x2 x3 x4 x5 hg hgroup => ?_⟩
  obtain ⟨m, rfl⟩ := as_reg hm
  obtain ⟨v, rfl⟩ := as_reg hl
  obtain ⟨e, hrom, rfl⟩ := substitute_lane T hy hg
  rw [group_eq, hgroup, row_six, col_six] at hrom
  have hlane : ((ofReg v).drop (4 * g)).take 4 = ofReg (v.extractLsb' (28 - 4 * g) 4) := by
    rw [← slice_ofReg (p := 4 * g) (q := 4 * g + 3) v (by omega) (by omega) (by omega), slice,
      Nat.add_sub_cancel_left]
  exact ⟨_, hrom, by omega, hlane, by rw [val_ofReg, hexDigit_toNat v hg]⟩

/-- R120: the row that the first two coordinates of an S-ROM read select. -/
theorem exists_sBox_row (T : Config.TableConfig) {g r : Nat} (hg : g < 8) (hr : r < 4) :
    ∃ box ∈ T.val.sBox, ∃ entries ∈ box, ∀ c, romS T.val g r c = entries[c]? := by
  obtain ⟨-, -, -, -, -, hl, hshape⟩ := wf_spec T.property
  have hg' : g < T.val.sBox.length := by omega
  have hr' : r < T.val.sBox[g].length := by
    have := (hshape _ (List.getElem_mem hg')).1
    omega
  exact ⟨_, List.getElem_mem hg', _, List.getElem_mem hr', fun c => by simp [romS, hg', hr']⟩

/-- R123: every row of the default S-boxes is a rearrangement of 0..15. -/
theorem sBox_row_perm : ∀ box ∈ Config.defaultTables.sBox, ∀ entries ∈ box, entries.Perm (List.range 16) := by
  decide +kernel

/-- 42_substitution.md section 1: every row of every default S-box holds each of 0..15 in exactly one column. -/
theorem sBox_column_unique {g r e : Nat} (hg : g < 8) (hr : r < 4) (he : e < 16) :
    ∃ c < 16, romS Config.defaultTables g r c = some e ∧
      ∀ c' < 16, romS Config.defaultTables g r c' = some e → c' = c := by
  obtain ⟨box, hbox, entries, hentries, hread⟩ := exists_sBox_row Config.tables hg hr
  have hperm := sBox_row_perm box hbox entries hentries
  have hlen : entries.length = 16 := by simpa using hperm.length_eq
  obtain ⟨c, hc⟩ := List.mem_iff_getElem?.1 (hperm.mem_iff.2 (List.mem_range.2 he))
  obtain ⟨hlt, -⟩ := List.getElem?_eq_some_iff.1 hc
  refine ⟨c, hlen ▸ hlt, (hread c).trans hc, fun c' hc' h => ?_⟩
  have hnodup : entries.Nodup := hperm.nodup_iff.2 List.nodup_range
  exact (List.getElem?_inj (hlen.symm ▸ hc') hnodup).1 ((hread c').symm.trans (h.trans hc.symm))

/-- R126: every column number is that of a group of row 0. -/
theorem exists_group_of_column {c : Nat} (hc : c < 16) : ∃ x : Bits, x.length = 6 ∧ row x = 0 ∧ col x = c :=
  ⟨[false, c.testBit 3, c.testBit 2, c.testBit 1, c.testBit 0, false], rfl, rfl, val_vec 4 c hc⟩

/-- Every lane of the default tables answers every vector of four bits. -/
theorem sboxLookup_onto {g : Nat} (hg : g < 8) {z : Bits} (hz : z.length = 4) :
    ∃ x : Bits, x.length = 6 ∧ sboxLookup Config.defaultTables g x = .ok z := by
  have hval : val z < 2 ^ 4 := hz ▸ val_lt z
  obtain ⟨c, hc, hrom, -⟩ := sBox_column_unique hg (r := 0) (by decide) hval
  obtain ⟨x, hx, hrow, hcol⟩ := exists_group_of_column hc
  refine ⟨x, hx, ?_⟩
  rw [sboxLookup, if_pos hx, hrow, hcol, hrom]
  exact (toBinary_ok hval).trans (by rw [← hz, vec_val])

/-- The vectors of a list, all of length `n`, are the successive slices of length `n` of their concatenation. -/
theorem flatten_drop_take {n : Nat} {xs : List Bits} (h : ∀ x ∈ xs, x.length = n) {g : Nat} {x : Bits}
    (hx : xs[g]? = some x) : (xs.flatten.drop (n * g)).take n = x := by
  induction xs generalizing g with
  | nil => simp at hx
  | cons y xs ih =>
    have hy : y.length = n := h y (by simp)
    cases g with
    | zero =>
      obtain rfl : y = x := by simpa using hx
      simp [List.take_left' hy]
    | succ g =>
      rw [List.flatten_cons, Nat.mul_succ, Nat.add_comm, ← List.drop_drop, List.drop_left' hy]
      exact ih (fun z hz => h z (by simp [hz])) (by simpa using hx)

/-- R125: eight groups make a 48-bit vector with these groups. -/
theorem exists_groups {x : Nat → Bits} (h : ∀ g < 8, (x g).length = 6) :
    ∃ m : Bits, m.length = 48 ∧ ∀ g < 8, group m g = x g := by
  have hlen : ∀ v ∈ (List.range 8).map x, v.length = 6 := by
    simp only [List.mem_map, List.mem_range]
    rintro v ⟨g, hg, rfl⟩
    exact h g hg
  refine ⟨((List.range 8).map x).flatten, ?_, fun g hg => ?_⟩
  · rw [List.length_flatten, List.map_congr_left hlen]
    simp [Function.comp_def]
  · rw [group_eq]
    exact flatten_drop_take hlen (by simp [hg])

/-- Two 32-bit vectors with the same eight lanes are the same. -/
theorem eq_of_lanes_eq {v w : Bits} (hv : v.length = 32) (hw : w.length = 32)
    (h : ∀ g < 8, (v.drop (4 * g)).take 4 = (w.drop (4 * g)).take 4) : v = w := by
  refine bits_ext (hv.trans hw.symm) fun p hp => ?_
  have hlane := congrArg (fun l => l[p % 4]?) (h (p / 4) (by omega))
  have hmod : p % 4 < 4 := Nat.mod_lt p (by decide)
  simpa [hmod, Nat.div_add_mod] using hlane

/-- 42_substitution.md section 1: with the default tables the substitution is onto: each lane's four bits are answered
on some group, and the eight groups make the input. -/
theorem substitute_onto {y : Bits} (hy : y.length = 32) :
    ∃ m : Bits, m.length = 48 ∧ substitute Config.defaultTables m = .ok y := by
  have hgroup (g : Nat) (hg : g < 8) :
      ∃ x : Bits, x.length = 6 ∧ sboxLookup Config.defaultTables g x = .ok ((y.drop (4 * g)).take 4) :=
    sboxLookup_onto hg (by simp [hy]; omega)
  choose! x hlen hlook using hgroup
  obtain ⟨m, hm, hgroups⟩ := exists_groups hlen
  obtain ⟨v, hv, hl, -⟩ := substitute_ok Config.tables hm
  have hvy : v = y := eq_of_lanes_eq hl hy fun g hg => by
    have hlane := substitute_lookup Config.tables hv hg
    rw [hgroups g hg] at hlane
    exact Except.ok.inj (hlane.symm.trans (hlook g hg))
  exact ⟨m, hm, hvy ▸ hv⟩

/-- Settles O37: the rows rearrange 0..15, and the substitution is onto lane by lane. -/
theorem substituteIsOnto : Obligations.SubstituteIsOnto :=
  ⟨fun _ hg _ hr _ he => sBox_column_unique hg hr he, fun _ => substitute_onto⟩

end Sys2Proof.LayerF
end

section
/-! The round function and one round over vectors (43_round_function.md, 44_feistel_driver.md section 1): what they
depend on, the length checks, and the round undone. -/

namespace Sys2Proof.LayerF

/-- R81: the zero vector is the identity. -/
theorem xor_zeros_left {n : Nat} {v : Bits} (h : v.length = n) : xor (List.replicate n false) v = .ok v := by
  obtain ⟨x, rfl⟩ := as_reg h
  rw [zeros_reg, xor_ofReg, BitVec.zero_xor]

/-- R102, R103: an answer of the expander is 48 bits for 32. -/
theorem expand_length (T : Config.TableConfig) {r x : Bits} (h : expand T.val r = .ok x) :
    r.length = 32 ∧ x.length = 48 := by
  have hr : r.length = 32 := by
    by_contra hne
    simp [expand_bad T.val hne] at h
  obtain ⟨v, hv, hl, -⟩ := expand_ok T hr
  obtain rfl : v = x := Except.ok.inj (hv.symm.trans h)
  exact ⟨hr, hl⟩

/-- 43_round_function.md section 1: the round function is its last two steps on the mixer's output. -/
theorem roundFunction_of_mix (T : Config.TableConfig) {r k x m : Bits} (hx : expand T.val r = .ok x)
    (hm : xor x k = .ok m) : roundFunction T.val r k = (substitute T.val m).bind (finalPermute T.val) := by
  obtain ⟨hr, hxl⟩ := expand_length T hx
  obtain ⟨hk, hml⟩ := xor_length hm
  obtain ⟨s, hs, -⟩ := substitute_ok T (hml.trans hxl)
  rw [roundFunction_of_steps hr (hk.symm.trans hxl) hx hm hs, hs]
  rfl

/-- Settles O39: the mixed vector decides, and under the zero half block the key is the mixed vector. -/
theorem roundFunctionDependsOnTheMix : Obligations.RoundFunctionDependsOnTheMix := by
  intro T r r' k k' x x' m hx hx' hm hm'
  have hml : m.length = 48 := (xor_length hm).2.trans (expand_length T hx).2
  have hzero := roundFunction_of_mix T (expand_replicate T false) (xor_zeros_left hml)
  exact ⟨(roundFunction_of_mix T hx hm).trans (roundFunction_of_mix T hx' hm').symm,
    (roundFunction_of_mix T hx hm).trans hzero.symm⟩

theorem split_bad {b : Bits} (h : b.length ≠ 64) : split b = .error .lengthError := if_neg h

/-- R151: the block is checked first, whatever the key. -/
theorem encryptOneRound_block_error (T : Config.Tables) {b : Bits} (k : Bits) (h : b.length ≠ 64) :
    encryptOneRound T b k = .error .lengthError := by
  rw [encryptOneRound, split_bad h]
  rfl

/-- R151: the key is checked second. -/
theorem encryptOneRound_key_error (T : Config.Tables) {b k : Bits} (hb : b.length = 64) (hk : k.length ≠ 48) :
    encryptOneRound T b k = .error .lengthError := by
  rw [encryptOneRound, split_ok hb]
  exact if_neg hk

/-- Settles O41: the two length checks in their order. -/
theorem oneRoundRejectsOtherLengths : Obligations.OneRoundRejectsOtherLengths :=
  fun T _ k => ⟨fun h => ⟨split_bad h, encryptOneRound_block_error T.val k h⟩, encryptOneRound_key_error T.val,
    fun h => encryptOneRound_block_error T.val k (by omega)⟩

/-- R140 over registers. -/
theorem roundFunction_reg (T : Config.TableConfig) (r : BitVec 32) (k : BitVec 48) :
    ∃ f : BitVec 32, roundFunction T.val (ofReg r) (ofReg k) = .ok (ofReg f) := by
  obtain ⟨v, hv, hl⟩ := roundFunction_ok T (ofReg_length r) (ofReg_length k)
  exact Machine.result_reg hv hl

/-- R151 over registers. -/
theorem encryptOneRound_reg (T : Config.TableConfig) (b : BitVec 64) (k : BitVec 48) :
    ∃ y : BitVec 64, encryptOneRound T.val (ofReg b) (ofReg k) = .ok (ofReg y) := by
  obtain ⟨f, hf⟩ := roundFunction_reg T (b.extractLsb' 0 32) k
  exact ⟨_, encryptOneRound_of_roundFunction hf⟩

/-- R153 over registers. -/
theorem swap_ofReg (b : BitVec 64) : swap (ofReg b) = ofReg (Machine.swapHalves b) := by
  rw [swap, slice_ofReg (n := 32) (lo := 32) b (by decide) rfl rfl,
    slice_ofReg (n := 32) (lo := 0) b (by decide) rfl rfl, append_reg, Machine.swapHalves]

/-- 44_feistel_driver.md section 1: the round of the swapped result mixes the same round-function word into the half it
was mixed into before, which gives the old half back. -/
theorem encryptOneRound_undoes (T : Config.TableConfig) {b y : BitVec 64} {k : BitVec 48}
    (h : encryptOneRound T.val (ofReg b) (ofReg k) = .ok (ofReg y)) :
    encryptOneRound T.val (ofReg (Machine.swapHalves y)) (ofReg k) = .ok (ofReg (Machine.swapHalves b)) := by
  obtain ⟨f, hf⟩ := roundFunction_reg T (b.extractLsb' 0 32) k
  obtain rfl := ofReg_ok_inj h (encryptOneRound_of_roundFunction hf)
  have hswap : Machine.swapHalves (b.extractLsb' 0 32 ++ (f ^^^ b.extractLsb' 32 32)) =
      (f ^^^ b.extractLsb' 32 32) ++ b.extractLsb' 0 32 := by
    rw [Machine.swapHalves, BitVec.extractLsb'_append_eq_right, BitVec.extractLsb'_append_eq_left]
  rw [hswap, encryptOneRound_of_roundFunction (f := f) (by rw [BitVec.extractLsb'_append_eq_right, hf]),
    BitVec.extractLsb'_append_eq_right, BitVec.extractLsb'_append_eq_left, ← BitVec.xor_assoc, BitVec.xor_self,
    BitVec.zero_xor, Machine.swapHalves]

/-- Settles O42, over the registers that block and key are. -/
theorem oneRoundUndoesItselfUpToSwap : Obligations.OneRoundUndoesItselfUpToSwap := by
  intro T b k hb hk
  obtain ⟨b, rfl⟩ := as_reg hb
  obtain ⟨k, rfl⟩ := as_reg hk
  obtain ⟨y, h⟩ := encryptOneRound_reg T b k
  exact ⟨_, h, by rw [swap_ofReg, swap_ofReg, encryptOneRound_undoes T h]⟩

end Sys2Proof.LayerF
end

section
/-! The assembler (30_encoding.md R70, R71): the word that a sized literal gives, the comment, and the expansions of the
pseudo-instructions as commands. -/

namespace Sys2Proof

/-- R70: the sized form of a command of format V, for a literal that fits. -/
theorem assembleSized_ok {m : Mnemonic} {a : Literal} (hm : m.isV = true) (hlen : a.length ≤ 64)
    (hval : a.value < 2 ^ a.length) :
    assembleSized m a = .ok (makeWord m.op (BitVec.ofNat 8 a.length) (BitVec.ofNat 64 a.value)) := by
  rw [assembleSized, if_neg (by simp [hm]), if_neg (Nat.not_lt.mpr hlen), if_neg (Nat.not_le.mpr hval)]

/-- R60: the fields of a word made of numbers that fit in them. -/
theorem makeWord_ofNat_fields (op : BitVec 4) {len x : Nat} (hlen : len ≤ 255) (hx : x < 2 ^ 64) :
    wordOp (makeWord op (BitVec.ofNat 8 len) (BitVec.ofNat 64 x)) = op ∧
      (wordLen (makeWord op (BitVec.ofNat 8 len) (BitVec.ofNat 64 x))).toNat = len ∧
      (wordData (makeWord op (BitVec.ofNat 8 len) (BitVec.ofNat 64 x))).toNat = x := by
  obtain ⟨hop, hl, hd⟩ := makeWord_fields op (BitVec.ofNat 8 len) (BitVec.ofNat 64 x)
  rw [hop, hl, hd]
  exact ⟨rfl, Nat.mod_eq_of_lt (by omega), Nat.mod_eq_of_lt hx⟩

/-- R70: the sized form gives one word with the mnemonic's opcode, the literal's length and its number. -/
theorem assemble_sized_fields {m : Mnemonic} {a : Literal} (hm : m.isV = true) (hlen : a.length ≤ 64)
    (hval : a.value < 2 ^ a.length) :
    ∃ w, assemble (.sized m a) = .ok [w] ∧ wordOp w = m.op ∧ (wordLen w).toNat = a.length ∧
      (wordData w).toNat = a.value := by
  have hx : a.value < 2 ^ 64 := hval.trans_le (Nat.pow_le_pow_right (by decide) hlen)
  refine ⟨_, ?_, makeWord_ofNat_fields m.op (by omega) hx⟩
  rw [assemble, assembleSized_ok hm hlen hval]
  rfl

/-- R70: `;` and what follows it are no part of the line. -/
theorem readLine_comment {text : List Char} (comment : List Char) (h : ';' ∉ text) :
    readLine (text ++ ';' :: comment) = readLine text := by
  have hkeep : ∀ c ∈ text, (c != ';') = true := fun c hc => by
    rw [bne_iff_ne]
    rintro rfl
    exact h hc
  rw [readLine, readLine, List.takeWhile_append_of_pos hkeep, List.takeWhile_eq_self_iff.2 hkeep]
  simp

/-- Settles O15: the sized form for both kinds of literal, the explicit form and the raw word within their ranges, and
the comment. -/
theorem assemblerForms : Obligations.AssemblerForms := by
  refine ⟨fun m n x hm hn hx => assemble_sized_fields (a := .hex n x) hm hn hx,
    fun m v hm hv => assemble_sized_fields (a := .bin v) hm hv (LayerF.val_lt v), fun m len x hlen hx => ?_,
    fun x hx => ?_, fun text comment h => ?_⟩
  · refine ⟨_, ?_, makeWord_ofNat_fields m.op hlen hx⟩
    rw [assemble, if_neg (Nat.not_lt.mpr hlen), if_neg (Nat.not_le.mpr hx)]
  · exact ⟨_, if_pos hx, Nat.mod_eq_of_lt hx⟩
  · rw [assembleText, assembleText, readLine_comment comment h]

/-- R14, R70: a literal that writes out a register gives its content on the data bus. -/
theorem assembleSized_register {m : Mnemonic} {n : Nat} (hm : m.isV = true) (hn : n ≤ 64) (x : BitVec n) :
    assembleSized m (.hex n x.toNat) = .ok (makeWord m.op (BitVec.ofNat 8 n) (x.setWidth 64)) := by
  rw [assembleSized_ok (a := .hex n x.toNat) hm hn x.isLt, Literal.length, Literal.value, BitVec.ofNat_toNat]

/-- R71. -/
theorem assemble_encrypt (b : BitVec 64) (k : BitVec 48) :
    assemble (.encrypt (.hex 64 b.toNat) (.hex 48 k.toNat)) =
      .ok [encode (.ldblk 64#8 b), encode (.ldkey 48#8 (k.setWidth 64)), encode (.enc 0#8 0#64)] := by
  rw [assemble, assembleSized_register rfl le_rfl, assembleSized_register rfl (by decide), BitVec.setWidth_eq]
  rfl

/-- R71. -/
theorem assemble_roundf (r : BitVec 32) (k : BitVec 48) :
    assemble (.roundf (.hex 32 r.toNat) (.hex 48 k.toNat)) =
      .ok [encode (.ldkey 48#8 (k.setWidth 64)), encode (.rf 32#8 (r.setWidth 64))] := by
  rw [assemble, assembleSized_register rfl (by decide), assembleSized_register rfl (by decide)]
  rfl

/-- R71. -/
theorem assemble_xor48 (a k : BitVec 48) :
    assemble (.xor48 (.hex 48 a.toNat) (.hex 48 k.toNat)) =
      .ok [encode (.ldkey 48#8 (k.setWidth 64)), encode (.mix 48#8 (a.setWidth 64))] := by
  rw [assemble, assembleSized_register rfl (by decide), assembleSized_register rfl (by decide)]
  rfl

/-- R13: a register of at most 64 bits travels on the data bus and is the operand of its width. -/
theorem operand_setWidth {n : Nat} (hn : n ≤ 64) (x : BitVec n) : (x.setWidth 64).extractLsb' 0 n = x := by
  refine BitVec.eq_of_getLsbD_eq fun i hi => ?_
  have h64 : i < 64 := by omega
  simp [hi, h64]

end Sys2Proof

namespace Sys2Proof.Machine

open LayerF

/-- R143: RF sent on the command port, with KEY loaded. -/
theorem run_rf {data : BitVec 64} {v : BitVec 32} {s : State} (hk : s.kv = true)
    (h : roundFunction Config.tables.val (ofReg (data.extractLsb' 0 32)) (ofReg s.key) = .ok (ofReg v))
    (n : Nat) (ws : List CommandWord) :
    Host.Core.run Sys2Proof.core (n + 1) (s.sending (encode (.rf 32#8 data) :: ws)) =
      Host.Core.run Sys2Proof.core n ((s.answer (okWord 32#8 (v.setWidth 64))).sending ws) :=
  run_sending_cons (decode_encode _) (rf_of_roundFunction (s := s.sending ws) hk h)

/-- R85: MIX sent on the command port, with KEY loaded. -/
theorem run_mix (data : BitVec 64) {s : State} (hk : s.kv = true) (n : Nat) (ws : List CommandWord) :
    Host.Core.run Sys2Proof.core (n + 1) (s.sending (encode (.mix 48#8 data) :: ws)) =
      Host.Core.run Sys2Proof.core n
        ((s.answer (okWord 48#8 ((data.extractLsb' 0 48 ^^^ s.key).setWidth 64))).sending ws) :=
  run_sending_cons (decode_encode _) (mix_good data (s.sending ws) hk)

/-- Settles O16: each expansion is run one command at a time. -/
theorem pseudoInstructionsCompute : Obligations.PseudoInstructionsCompute := by
  intro s b r a k
  have hkey : (k.setWidth 64).extractLsb' 0 48 = k := operand_setWidth (by decide) k
  have hloaded : ((s.loadKey k).answer 0#76).kv = true := by simp
  refine ⟨?_, ?_, ?_⟩
  · obtain ⟨y, hy, henc⟩ := run_enc 0#8 0#64
      (s := (((s.loadBlock b).answer 0#76).loadKey k).answer 0#76) (by simp) (by simp)
    rw [run_ldblk, run_ldkey, hkey, henc]
    exact ⟨_, y, assemble_encrypt b k, rfl, hy, by simp⟩
  · obtain ⟨y, hv⟩ := roundFunction_reg Config.tables r k
    have hoperand : (r.setWidth 64).extractLsb' 0 32 = r := operand_setWidth (by decide) r
    rw [run_ldkey, hkey, run_rf (v := y) hloaded (by rw [hoperand]; exact hv)]
    exact ⟨_, y, assemble_roundf r k, rfl, hv, by simp⟩
  · have hoperand : (a.setWidth 64).extractLsb' 0 48 = a := operand_setWidth (by decide) a
    rw [run_ldkey, hkey, run_mix _ hloaded, hoperand]
    exact ⟨_, assemble_xor48 a k, rfl, by simp⟩

end Sys2Proof.Machine
end

section
/-! The command RF and the stage commands (43_round_function.md section 2): RF answers the round function, whose four
steps the commands EXP, MIX, SUB and PRM perform one at a time. -/

namespace Sys2Proof.Machine

open LayerF

/-- Settles O53: RF's success and its two faults; the corner cases and the example are values of the round function. -/
theorem rfAnswersTheRoundFunction : Obligations.RfAnswersTheRoundFunction := by
  refine ⟨fun data s hk => ?_, rf_unloaded, fun len data s => rf_bad data s, fun s hk hkey => ?_⟩
  · obtain ⟨v, hv, hexec⟩ := rf_good data s hk
    refine ⟨v, hexec, hv, fun hd hkey => ?_, fun hd hkey => ?_, fun hd hkey => ?_⟩
    all_goals exact ofReg_ok_inj hv (by rw [hd, hkey]; decide +kernel)
  · have hdec : decode 0x92000000000F0AAF0AA#76 = .rf 32#8 0xF0AAF0AA#64 :=
      decode_eq_of_fields (by decide) (by decide) (by decide)
    have hword : okWord 32#8 ((0x234AA9BB#32).setWidth 64) = 0x02000000000234AA9BB#76 := by decide
    have hround : roundFunction Config.tables.val (ofReg ((0xF0AAF0AA#64).extractLsb' 0 32)) (ofReg s.key) =
        .ok (ofReg 0x234AA9BB#32) := by rw [hkey]; exact roundFunction_example
    rw [hdec, rf_of_roundFunction hk hround, hword]
    rfl

/-- Settles O54: each stage command answers its step of the round function, on the data of the answer before it. -/
theorem stageCommandsComposeToRf : Obligations.StageCommandsComposeToRf := by
  intro data s hk
  obtain ⟨x, hx, hexp⟩ := exp_good data s
  obtain ⟨y, hy, -⟩ := sub_good ((x ^^^ s.key).setWidth 64) s
  obtain ⟨f, hf, -⟩ := prm_good (y.setWidth 64) s
  have hmix := mix_good (x.setWidth 64) (s.answer (okWord 48#8 (x.setWidth 64))) hk
  rw [operand_setWidth (by decide), State.answer_key] at hmix
  have hround : roundFunction Config.tables.val (ofReg (data.extractLsb' 0 32)) (ofReg s.key) = .ok (ofReg f) := by
    rw [operand_setWidth (by decide)] at hy hf
    rw [roundFunction_of_mix Config.tables hx (xor_ofReg x s.key), hy]
    exact hf
  exact ⟨_, _, _, f.setWidth 64, _, _, _, _, _, hexp, hmix, sub_of_substitute _ hy, prm_of_finalPermute _ hf,
    rf_of_roundFunction hk hround, by simp [State.answer]⟩

end Sys2Proof.Machine
end

section
/-! Sequences of commands (44_feistel_driver.md section 1, 70_reset_and_hazards.md sections 2, 3): two rounds, a failed
load before a command, two users, and what suffices after a reset. -/

namespace Sys2Proof.Machine

open LayerF

theorem rspErr_okWord (len : BitVec 8) (data : BitVec 64) : rspErr (okWord len data) = false :=
  (okWord_fields len data).1

@[simp] theorem State.sending_kv (ws : List CommandWord) (s : State) : (s.sending ws).kv = s.kv := rfl
@[simp] theorem State.sending_err (ws : List CommandWord) (s : State) : (s.sending ws).err = s.err := rfl
@[simp] theorem State.sending_cause (ws : List CommandWord) (s : State) : (s.sending ws).cause = s.cause := rfl

/-- R155, R156: a block loaded under the key that stands in KEY, and its round. -/
theorem run_ldblk_enc {b y : BitVec 64} {s : State} (hk : s.kv = true)
    (h : encryptOneRound Config.tables.val (ofReg b) (ofReg s.key) = .ok (ofReg y)) :
    ∃ t : State,
      Host.Core.run Sys2Proof.core 2 (s.sending [encode (.ldblk 64#8 b), encode (.enc 0#8 0#64)]) = .next t ∧
      t.out = y ∧ t.key = s.key ∧ t.kv = true ∧ t.err = s.err := by
  obtain ⟨z, hz, henc⟩ := run_enc 0#8 0#64 (s := (s.loadBlock b).answer 0#76) (by simp) (by simp [hk])
  obtain rfl : z = y := ofReg_ok_inj hz h
  rw [run_ldblk, henc]
  exact ⟨_, rfl, rfl, rfl, by simp [hk], by simp⟩

/-- Settles O55: each load and ENC runs one round, and the second undoes the first up to the swap. -/
theorem twoEncsUndoABlockUpToSwap : Obligations.TwoEncsUndoABlockUpToSwap := by
  intro s k b
  obtain ⟨y, hy⟩ := encryptOneRound_reg Config.tables b (k.extractLsb' 0 48)
  obtain ⟨t, ht, hout, hkey, hkv, herr⟩ := run_ldblk_enc (s := (s.loadKey (k.extractLsb' 0 48)).answer 0#76)
    (by simp) hy
  have hagain : encryptOneRound Config.tables.val (ofReg (swapHalves t.out)) (ofReg t.key) =
      .ok (ofReg (swapHalves b)) := by
    rw [hout, hkey]
    exact encryptOneRound_undoes Config.tables hy
  obtain ⟨u, hu, hout', -, -, herr'⟩ := run_ldblk_enc hkv hagain
  have hfirst : t.err = s.err := by simpa using herr
  rw [run_ldkey, ht]
  exact ⟨t, u, rfl, hu, hout', hfirst, herr'.trans hfirst⟩

/-- 70_reset_and_hazards.md section 3: ENC after a fault writes and answers what it would have without the fault, and
ERR and CAUSE are the fault's. -/
theorem enc_after_fault (c : Cause) (len : BitVec 8) (data : BitVec 64) {s : State} (hk : s.kv = true)
    (hb : s.bv = true) :
    ∃ t v, exec (.enc len data) (s.raiseFault c) = .next t ∧ exec (.enc len data) s = .next v ∧ t.out = v.out ∧
      t.err = true ∧ t.cause = c.code ∧
      ∃ w, t.responses = (s.raiseFault c).responses ++ [w] ∧ v.responses = s.responses ++ [w] ∧ rspErr w = false := by
  obtain ⟨y, hy, hexec⟩ := enc_good len data s hb hk
  have hafter := enc_of_encryptOneRound (s := s.raiseFault c) len data (by simp [hb]) (by simp [hk]) hy
  exact ⟨_, _, hafter, hexec, rfl, by simp, by simp, _, rfl, rfl, rspErr_okWord _ _⟩

/-- Settles O58: a failed load is a fault entry, after which ENC, MIX and RF find the registers and flags as they
were. -/
theorem failedLoadLeavesStaleRegisters : Obligations.FailedLoadLeavesStaleRegisters := by
  intro len len' data d s hk hb
  refine ⟨fun h => ?_, fun h => ?_, fun h => ?_⟩
  · obtain ⟨t, v, henc⟩ := enc_after_fault .lenXor len' d hk hb
    exact ⟨_, t, v, ldkey_bad data s h, henc⟩
  · obtain ⟨t, v, henc⟩ := enc_after_fault .lenBlock len' d hk hb
    exact ⟨_, t, v, ldblk_bad data s h, henc⟩
  · have hk' : (s.raiseFault .lenXor).kv = true := by simp [hk]
    obtain ⟨v, hv, hrf⟩ := rf_good d s hk
    exact ⟨_, _, _, _, _, ldkey_bad data s h, mix_good d _ hk', rfl, rspErr_okWord _ _, mix_good d s hk,
      rf_of_roundFunction hk' hv, rfl, rspErr_okWord _ _, hrf⟩

/-- Settles O59: the run one command at a time; the second LDKEY replaces the key before the ENC. -/
theorem interleavedKeyIsUsed : Obligations.InterleavedKeyIsUsed := by
  intro s ka ba kb
  obtain ⟨y, hy, henc⟩ := run_enc 0#8 0#64
    (s := (((((s.loadKey (ka.extractLsb' 0 48)).answer 0#76).loadBlock ba).answer 0#76).loadKey
      (kb.extractLsb' 0 48)).answer 0#76) (by simp) (by simp)
  rw [run_ldkey, run_ldblk, run_ldkey, henc]
  exact ⟨_, y, rfl, hy, rfl, rfl, by simp, by simp, by simp⟩

/-- R156, R157: with KEY and BLOCK loaded ENC succeeds, and RDOUT then answers the same word. -/
theorem enc_then_rdout {s : State} (hk : s.kv = true) (hb : s.bv = true) :
    ∃ t u w, exec (.enc 0#8 0#64) s = .next t ∧ exec (.rdout 0#8 0#64) t = .next u ∧
      t.responses = s.responses ++ [w] ∧ rspErr w = false ∧ u.responses = t.responses ++ [w] := by
  obtain ⟨y, -, henc⟩ := enc_good 0#8 0#64 s hb hk
  exact ⟨_, _, _, henc, rdout_good _ _ _ (by simp), rfl, rspErr_okWord _ _, rfl⟩

/-- Settles O60: the commands that read no register succeed at once, MIX and RF under the loaded key, and ENC and RDOUT
after the two loads in either order. -/
theorem bootSequenceSuffices : Obligations.BootSequenceSuffices := by
  intro s _ k b d
  refine ⟨?_, ?_, ?_, ?_⟩
  · obtain ⟨v1, -, hexp⟩ := exp_good d s
    obtain ⟨v2, -, hsub⟩ := sub_good d s
    obtain ⟨v3, -, hprm⟩ := prm_good d s
    exact ⟨_, _, _, _, _, hexp, rspErr_okWord _ _, hsub, rspErr_okWord _ _, hprm, rspErr_okWord _ _, nop_good _ _ s,
      by rw [zero_ok, rspErr_okWord], rdst_good _ _ s, rspErr_okWord _ _⟩
  · have hk : ((s.loadKey (k.extractLsb' 0 48)).answer 0#76).kv = true := by simp
    obtain ⟨v, -, hrf⟩ := rf_good d _ hk
    exact ⟨_, _, _, ldkey_good k s, mix_good d _ hk, rspErr_okWord _ _, hrf, rspErr_okWord _ _⟩
  · obtain ⟨t, u, w, h⟩ := enc_then_rdout
      (s := (((s.loadKey (k.extractLsb' 0 48)).answer 0#76).loadBlock b).answer 0#76) (by simp) (by simp)
    exact ⟨_, _, t, u, w, ldkey_good k s, ldblk_good b _, h⟩
  · obtain ⟨t, u, w, h⟩ := enc_then_rdout
      (s := (((s.loadBlock b).answer 0#76).loadKey (k.extractLsb' 0 48)).answer 0#76) (by simp) (by simp)
    exact ⟨_, _, t, u, w, ldblk_good b s, ldkey_good k _, h⟩

end Sys2Proof.Machine
end
